-- ==== Sys2Proof/Word.lean ====
section
/-! DEFINITION. The widths of the block's values (00_scope.md R7, R9): unsigned, 8, 16 and 32 bits. -/

namespace Sys2Proof

/-- One byte of a frame, of a chunk or of an operand (00_scope.md R10). -/
abbrev Byte := BitVec 8

/-- A 16-bit value: a pulse width, speed units, a split value, a delay (00_scope.md R7). -/
abbrev Half := BitVec 16

/-- A request word, `REQ[31:0]` (30_encoding.md R70). -/
abbrev ReqWord := BitVec 32

end Sys2Proof
end

