-- ==== Sys2Proof/Config.lean ====
section
/-! DEFINITION. The configuration record CFG (00_scope.md R7, 10_state.md R20, R21), the answers the transport
oracle may give (00_scope.md R11, R12), the samples of `res_ready` (10_state.md R33), and the free values: constants
without a body, of which nothing can be proved. -/

namespace Sys2Proof

/-- MATCH_ALIGN (20_memory.md R57). -/
inductive MatchAlign where
  | byte
  | nibble
  deriving DecidableEq, Repr

/-- AG_PAYLOAD: a byte list of length 2 to 4 (00_scope.md R7, R8). The length condition of R8 holds by the type. -/
inductive AgPayload where
  | two (p0 p1 : Byte)
  | three (p0 p1 p2 : Byte)
  | four (p0 p1 p2 p3 : Byte)
  deriving DecidableEq, Repr, Inhabited

/-- The payload as the byte list that follows the code in the frame (30_encoding.md R80). -/
def AgPayload.bytes : AgPayload → List Byte
  | .two p0 p1 => [p0, p1]
  | .three p0 p1 p2 => [p0, p1, p2]
  | .four p0 p1 p2 p3 => [p0, p1, p2, p3]

/-- CFG: one field for every parameter of 00_scope.md R7, with the widths of 10_state.md R21. Which values are legal
is `Machine.configWf`. -/
structure Config where
  header : Byte
  codeSetspeed : Byte
  codeMoveto : Byte
  codeActiongroup : Byte
  codeStoprecover : Byte
  stopPayload : List Byte
  statusQuery : List Byte
  statusAnswer : List Byte
  agPayload : AgPayload
  probePolls : Byte
  probeIntervalMs : Half
  servoIdMax : Byte
  angleMax : Byte
  angleClampMin : Byte
  pwBase : Half
  pwMin : Half
  pwMax : Half
  speedMin : Byte
  speedMax : Byte
  speedDiv : Byte
  unitsMin : Half
  unitsMax : Half
  chunkMax : Nat
  matchAlign : MatchAlign
  moveOnSpeedFail : Bool
  /-- Timing only; no rule reads it (R7, R250). -/
  baud : Nat
  /-- Timing only; it belongs to the transport (R7, R148, R210). -/
  readTimeoutMs : Nat
  deriving DecidableEq, Repr

/-- What the oracle may answer to one `TxWrite`: the whole frame accepted; failed, with as many of the frame's first
bytes on the line as `sent` says (any prefix, 20_memory.md R59); or no answer ever (60_exceptions.md R207). -/
inductive TxAnswer where
  | accepted
  | failed (sent : Nat)
  | never
  deriving DecidableEq, Repr, Inhabited

/-- What the oracle may answer to one `RxRead` (10_state.md R35): at least one byte, `Empty`, `ReadError`; or no answer
ever (60_exceptions.md R207). -/
inductive RxAnswer where
  | bytes (x : Byte) (xs : List Byte)
  | empty
  | readError
  | never
  deriving DecidableEq, Repr, Inhabited

/-- One sample of `res_ready` (10_state.md R33): the caller does not take the result in this step, takes it, or never
takes it (60_exceptions.md R207). -/
inductive ReadySample where
  | low
  | high
  | never
  deriving DecidableEq, Repr, Inhabited

/-- OPEN (00_scope.md R7, decision D16): the payload of the StartActionGroup frame. Log 9. -/
opaque Config.openAgPayload : AgPayload

/-- OPEN (00_scope.md R7, decision D24): how far CHUNK_MAX lies above its least value 1. Log 9. -/
opaque Config.openChunkRoom : Nat

/-- FREE VALUE: the oracle's answer to the k-th `TxWrite` past the end of the scripted ones. Log 2. -/
opaque Config.freeTx : Nat → TxAnswer

/-- FREE VALUE: the oracle's answer to the k-th `RxRead` past the end of the scripted ones. Log 2. -/
opaque Config.freeRx : Nat → RxAnswer

/-- FREE VALUE: the k-th sample of `res_ready` past the end of the listed ones. Log 7. -/
opaque Config.freeReady : Nat → ReadySample

/-- FREE VALUE: the 16-bit pulse width where the exact one does not fit 16 bits, which no value of 00_scope.md R7
allows and an unusual well-formed configuration does. Log 10. -/
opaque Config.freePulse : Nat → Half

/-- The configuration with the values of 00_scope.md R7 and the two OPEN parameters as arguments. -/
def Config.withOpen (payload : AgPayload) (chunkMax : Nat) : Config where
  header := 0xFF
  codeSetspeed := 0x01
  codeMoveto := 0x02
  codeActiongroup := 0x09
  codeStoprecover := 0x0B
  stopPayload := [0x00, 0x01, 0x00]
  statusQuery := [0xFF, 0x00, 0x12, 0x00, 0x00]
  statusAnswer := [0xF0, 0x12, 0x00, 0x00]
  agPayload := payload
  probePolls := 3
  probeIntervalMs := 10
  servoIdMax := 15
  angleMax := 180
  angleClampMin := 7
  pwBase := 500
  pwMin := 500
  pwMax := 2500
  speedMin := 9
  speedMax := 180
  speedDiv := 9
  unitsMin := 1
  unitsMax := 20
  chunkMax := chunkMax
  matchAlign := .byte
  moveOnSpeedFail := false
  baud := 9600
  readTimeoutMs := 2000

/-- The default configuration of 00_scope.md R7, its OPEN parameters unknown. -/
def Config.standard : Config := .withOpen Config.openAgPayload (Config.openChunkRoom + 1)

end Sys2Proof
end

