-- ==== Sys2Proof/Syntax.lean ====
section
/-! DEFINITION. The instructions: one constructor for every row of spec/opcode_table.json. -/

namespace Sys2Proof

/-- The operand of ENC_STOPRECOVER (30_encoding.md R71): 0 stop, 1 recover. -/
inductive StopMode where
  | stop
  | recover
  deriving DecidableEq, Repr

/-- The rows of spec/opcode_table.json: the fifteen requests (30_encoding.md R71, operands as R73 assembles them), the
five wire frames (R75) and the status answer the matcher looks for (R81). -/
inductive Instr where
  /-- CONV_ANGLE (40_conversion.md R105). -/
  | convAngle (angle : Half)
  /-- CONV_SPEED (40_conversion.md R106). -/
  | convSpeed (speed : Half)
  /-- SPLIT16 (40_conversion.md R107). -/
  | split16 (value : Half)
  /-- ID_BYTE (40_conversion.md R108). -/
  | idByte (id : Byte)
  /-- ENC_SETSPEED (41_frame_encoder.md R120). -/
  | encSetspeed (id : Byte) (units : Half)
  /-- ENC_MOVETO (41_frame_encoder.md R121). -/
  | encMoveto (id : Byte) (pw : Half)
  /-- ENC_ACTIONGROUP (41_frame_encoder.md R122). -/
  | encActiongroup
  /-- ENC_STOPRECOVER (41_frame_encoder.md R123). -/
  | encStoprecover (mode : StopMode)
  /-- ENC_STATUSQUERY (41_frame_encoder.md R124). -/
  | encStatusquery
  /-- MATCH_RESPONSE (42_response_matcher.md R147). -/
  | matchResponse (n : Byte) (d : Half)
  /-- PROBE (43_session_ops.md R160). -/
  | probe
  /-- MOVE_SERVO (43_session_ops.md R161). -/
  | moveServo (id angle speed : Byte)
  /-- EMERGENCY_STOP (43_session_ops.md R162). -/
  | emergencyStop
  /-- RECOVER (43_session_ops.md R163). -/
  | recover
  /-- START_ACTION_GROUP (43_session_ops.md R164). -/
  | startActionGroup
  /-- FRAME_SETSPEED (30_encoding.md R76). -/
  | frameSetspeed (id : Byte) (units : Half)
  /-- FRAME_MOVETO (30_encoding.md R77). -/
  | frameMoveto (id : Byte) (pw : Half)
  /-- FRAME_STOPRECOVER (30_encoding.md R78). -/
  | frameStoprecover
  /-- FRAME_STATUSQUERY (30_encoding.md R79). -/
  | frameStatusquery
  /-- FRAME_ACTIONGROUP (30_encoding.md R80). -/
  | frameActiongroup (payload : List Byte)
  /-- PATTERN_STATUS_ANSWER (30_encoding.md R81). -/
  | patternStatusAnswer
  deriving DecidableEq, Repr

end Sys2Proof
end

