-- ==== Sys2Proof/Machine/Operands.lean ====
section
/-! DEFINITION. The operand computations: the unit converter's functions (40_conversion.md R100 to R104), the range
checks of the operands (60_exceptions.md R201, R203), and the frame functions (41_frame_encoder.md R120 to R125). -/

namespace Sys2Proof.Machine

/-- `pulse_of(angle)` before it is narrowed: a natural, no wrap (40_conversion.md R100). -/
def exactPulse (c : Config) (angle : Nat) : Nat :=
  c.pwBase.toNat + (200 * max angle c.angleClampMin.toNat + 9) / 18

/-- `pulse_of(angle)` (40_conversion.md R100), 16 bits. Its domain is `[0, ANGLE_MAX]`; outside it the value is no
rule's, and no operation asks for it (log 11). An exact value beyond 16 bits is a free value (log 10). -/
def pulseOf (c : Config) (angle : Nat) : Half :=
  if exactPulse c angle < 65536 then BitVec.ofNat 16 (exactPulse c angle) else Config.freePulse (exactPulse c angle)

/-- `units_of(speed)` (40_conversion.md R101); its domain is `[SPEED_MIN, SPEED_MAX]` (log 11). -/
def unitsOf (c : Config) (speed : Nat) : Half := BitVec.ofNat 16 (speed / c.speedDiv.toNat)

/-- `high(v) = v[15:8]` (40_conversion.md R102). -/
def high (v : Half) : Byte := v.extractLsb' 8 8

/-- `low(v) = v[7:0]` (40_conversion.md R102). -/
def low (v : Half) : Byte := v.extractLsb' 0 8

/-- `split16(v) = (hi, lo)` (40_conversion.md R102). -/
def splitHalf (v : Half) : Byte × Byte := (high v, low v)

/-- `combine(hi, lo) = 256 × hi + lo` (40_conversion.md R103). -/
def combine (hi lo : Byte) : Half := BitVec.ofNat 16 (256 * hi.toNat + lo.toNat)

/-- `id_byte(id)` (40_conversion.md R104). -/
def idByteOf (id : Byte) : Byte := id

/-! The range checks: true where the operand is OUT of its legal range (60_exceptions.md R201). -/

/-- Servo id outside `[0, SERVO_ID_MAX]`. -/
def idOut (c : Config) (id : Byte) : Bool := decide (c.servoIdMax.toNat < id.toNat)

/-- Angle outside `[0, ANGLE_MAX]`. -/
def angleOut (c : Config) (angle : Nat) : Bool := decide (c.angleMax.toNat < angle)

/-- Speed outside `[SPEED_MIN, SPEED_MAX]`. -/
def speedOut (c : Config) (speed : Nat) : Bool :=
  decide (speed < c.speedMin.toNat) || decide (c.speedMax.toNat < speed)

/-- Pulse width outside `[PW_MIN, PW_MAX]`. -/
def pwOut (c : Config) (pw : Half) : Bool :=
  decide (pw.toNat < c.pwMin.toNat) || decide (c.pwMax.toNat < pw.toNat)

/-- Speed units outside `[UNITS_MIN, UNITS_MAX]`. -/
def unitsOut (c : Config) (units : Half) : Bool :=
  decide (units.toNat < c.unitsMin.toNat) || decide (c.unitsMax.toNat < units.toNat)

/-- The checks in order, each with its info byte: the first that fails decides (60_exceptions.md R203). -/
def firstBad : List (Bool × Byte) → Option Byte
  | [] => none
  | (out, info) :: rest => if out then some info else firstBad rest

/-! The frame functions (41_frame_encoder.md). They read their arguments and CFG only (R125). -/

/-- `frame_setspeed(id, units)` (41_frame_encoder.md R120); low byte before high (20_memory.md R53). -/
def setspeedBytes (c : Config) (id : Byte) (units : Half) : List Byte :=
  [c.header, c.codeSetspeed, idByteOf id, low units, high units]

/-- `frame_moveto(id, pw)` (41_frame_encoder.md R121). -/
def movetoBytes (c : Config) (id : Byte) (pw : Half) : List Byte :=
  [c.header, c.codeMoveto, idByteOf id, low pw, high pw]

/-- A StartActionGroup frame with a given payload (30_encoding.md R80). -/
def actiongroupBytesOf (c : Config) (payload : List Byte) : List Byte := [c.header, c.codeActiongroup] ++ payload

/-- `frame_actiongroup()` (41_frame_encoder.md R122). -/
def actiongroupBytes (c : Config) : List Byte := actiongroupBytesOf c c.agPayload.bytes

/-- `frame_stoprecover(mode)` (41_frame_encoder.md R123): the mode is accepted and ignored. -/
def stoprecoverBytes (c : Config) (_mode : StopMode) : List Byte := [c.header, c.codeStoprecover] ++ c.stopPayload

/-- `frame_statusquery()` (41_frame_encoder.md R124). -/
def statusqueryBytes (c : Config) : List Byte := c.statusQuery

/-- How a frame's reader puts the 16-bit field at index `i` together (20_memory.md R55): `frame[i] + 256 × frame[i+1]`. -/
def readField16 (bytes : List Byte) (i : Nat) : Option Nat := do
  let lo ← bytes[i]?
  let hi ← bytes[i + 1]?
  return lo.toNat + 256 * hi.toNat

end Sys2Proof.Machine
end

