-- ==== Sys2Proof/WellFormed.lean ====
section
/-! DEFINITION. Which instruction terms have an encoding. A request's operands fill their fields of the request word
(30_encoding.md R73: wider than their legal ranges on purpose), so every request term is well-formed. -/

namespace Sys2Proof

/-- The top nibble of byte 2 of a SetSpeed or MoveTo frame is 0 (30_encoding.md R76, R77). -/
def frameIdWf (id : Byte) : Bool := id.toNat < 16

/-- The StartActionGroup frame carries 2 to 4 payload bytes (30_encoding.md R75, R80). -/
def framePayloadWf (payload : List Byte) : Bool := 2 ≤ payload.length && payload.length ≤ 4

/-- Whether the term has an encoding. -/
def Instr.wf : Instr → Bool
  | .convAngle _ => true
  | .convSpeed _ => true
  | .split16 _ => true
  | .idByte _ => true
  | .encSetspeed _ _ => true
  | .encMoveto _ _ => true
  | .encActiongroup => true
  | .encStoprecover _ => true
  | .encStatusquery => true
  | .matchResponse _ _ => true
  | .probe => true
  | .moveServo _ _ _ => true
  | .emergencyStop => true
  | .recover => true
  | .startActionGroup => true
  | .frameSetspeed id _ => frameIdWf id
  | .frameMoveto id _ => frameIdWf id
  | .frameStoprecover => true
  | .frameStatusquery => true
  | .frameActiongroup payload => framePayloadWf payload
  | .patternStatusAnswer => true

end Sys2Proof
end

