-- ==== Sys2Proof/Decode.lean ====
section
/-! DEFINITION. The decoders and the encoder: the request word (30_encoding.md R70 to R73, R83, R87), the wire frames
(R74 to R80, R82) and the status answer (R81). -/

namespace Sys2Proof

open Machine

/-! The fields of a request word (30_encoding.md R70). -/

/-- `OP = REQ[31:28]`. -/
def fieldOp (w : ReqWord) : BitVec 4 := w.extractLsb' 28 4

/-- `RSV = REQ[27:24]`. -/
def fieldRsv (w : ReqWord) : BitVec 4 := w.extractLsb' 24 4

/-- `A = REQ[23:16]`. -/
def fieldA (w : ReqWord) : Byte := w.extractLsb' 16 8

/-- `B = REQ[15:0]`. -/
def fieldB (w : ReqWord) : Half := w.extractLsb' 0 16

/-- `mode = B[0]`: 0 stop, 1 recover (30_encoding.md R71). -/
def modeOf (b : Half) : StopMode := if b.getLsbD 0 then .recover else .stop

/-- The mode as the operand `B`. -/
def modeBits : StopMode → Half
  | .stop => 0
  | .recover => 1

/-- The operation named by an OP value, with its operands assembled (30_encoding.md R71, R73); none for the reserved 0. -/
def operation (op : Nat) (a : Byte) (b : Half) : Option Instr :=
  match op with
  | 0x1 => some (.convAngle b)
  | 0x2 => some (.convSpeed b)
  | 0x3 => some (.split16 b)
  | 0x4 => some (.idByte a)
  | 0x5 => some (.encSetspeed a b)
  | 0x6 => some (.encMoveto a b)
  | 0x7 => some .encActiongroup
  | 0x8 => some (.encStoprecover (modeOf b))
  | 0x9 => some .encStatusquery
  | 0xA => some (.matchResponse a b)
  | 0xB => some .probe
  | 0xC => some (.moveServo a (high b) (low b))
  | 0xD => some .emergencyStop
  | 0xE => some .recover
  | 0xF => some .startActionGroup
  | _ => none

/-- The "must be zero" column of 30_encoding.md R71 as the mask of those bits of the word. -/
def mustBeZero (op : Nat) : ReqWord :=
  match op with
  | 0x1 => 0x00FF0000
  | 0x2 => 0x00FF0000
  | 0x3 => 0x00FF0000
  | 0x4 => 0x0000FFFF
  | 0x5 => 0
  | 0x6 => 0
  | 0x7 => 0x00FFFFFF
  | 0x8 => 0x00FFFFFE
  | 0x9 => 0x00FFFFFF
  | 0xA => 0
  | 0xB => 0x00FFFFFF
  | 0xC => 0
  | 0xD => 0x00FFFFFF
  | 0xE => 0x00FFFFFF
  | 0xF => 0x00FFFFFF
  | _ => 0

/-- What decoding a request word gives: an operation, or the info byte of its ILLEGAL_REQUEST (30_encoding.md R72). -/
inductive RequestDecode where
  | ok (i : Instr)
  | illegal (info : Byte)
  deriving DecidableEq, Repr

/-- `decode(REQ)` (30_encoding.md R72): OP, then RSV, then the must-be-zero bits. -/
def decodeRequest (w : ReqWord) : RequestDecode :=
  match operation (fieldOp w).toNat (fieldA w) (fieldB w) with
  | none => .illegal 0x01
  | some i =>
    if fieldRsv w ≠ 0 then .illegal 0x02
    else if w &&& mustBeZero (fieldOp w).toNat ≠ 0 then .illegal 0x03
    else .ok i

/-- The word `OP << 28 | A << 16 | B` with `RSV = 0` (30_encoding.md R87). -/
def requestWord (op : BitVec 4) (a : Byte) (b : Half) : ReqWord := op ++ (0 : BitVec 4) ++ a ++ b

/-- The request word of a request; none for a row that is no request. -/
def encodeRequest : Instr → Option ReqWord
  | .convAngle angle => some (requestWord 0x1 0 angle)
  | .convSpeed speed => some (requestWord 0x2 0 speed)
  | .split16 value => some (requestWord 0x3 0 value)
  | .idByte id => some (requestWord 0x4 id 0)
  | .encSetspeed id units => some (requestWord 0x5 id units)
  | .encMoveto id pw => some (requestWord 0x6 id pw)
  | .encActiongroup => some (requestWord 0x7 0 0)
  | .encStoprecover mode => some (requestWord 0x8 0 (modeBits mode))
  | .encStatusquery => some (requestWord 0x9 0 0)
  | .matchResponse n d => some (requestWord 0xA n d)
  | .probe => some (requestWord 0xB 0 0)
  | .moveServo id angle speed => some (requestWord 0xC id (combine angle speed))
  | .emergencyStop => some (requestWord 0xD 0 0)
  | .recover => some (requestWord 0xE 0 0)
  | .startActionGroup => some (requestWord 0xF 0 0)
  | .frameSetspeed _ _ => none
  | .frameMoveto _ _ => none
  | .frameStoprecover => none
  | .frameStatusquery => none
  | .frameActiongroup _ => none
  | .patternStatusAnswer => none

/-- The pseudo-operation `move id, angle, speed` (30_encoding.md R86). -/
def pseudoMove (id angle speed : Byte) : Instr := .moveServo id angle speed

/-- The bytes of a wire frame under a configuration (30_encoding.md R75); none for a row that is no frame. -/
def encodeFrame (c : Config) : Instr → Option (List Byte)
  | .frameSetspeed id units => some (setspeedBytes c id units)
  | .frameMoveto id pw => some (movetoBytes c id pw)
  | .frameStoprecover => some (stoprecoverBytes c .stop)
  | .frameStatusquery => some (statusqueryBytes c)
  | .frameActiongroup payload => some (actiongroupBytesOf c payload)
  | .convAngle _ => none
  | .convSpeed _ => none
  | .split16 _ => none
  | .idByte _ => none
  | .encSetspeed _ _ => none
  | .encMoveto _ _ => none
  | .encActiongroup => none
  | .encStoprecover _ => none
  | .encStatusquery => none
  | .matchResponse _ _ => none
  | .probe => none
  | .moveServo _ _ _ => none
  | .emergencyStop => none
  | .recover => none
  | .startActionGroup => none
  | .patternStatusAnswer => none

/-- A frame's fields after its code byte (30_encoding.md R75 to R80). DESIGN CHOICE (log 21): a StartActionGroup frame is
read with any payload of 2 to 4 bytes, CFG's AG_PAYLOAD or not; the spec says nothing of another payload. -/
def decodePayload (c : Config) (code : Byte) (payload : List Byte) : Option Instr :=
  if code = c.codeSetspeed then
    match payload with
    | [id, lo, hi] => if frameIdWf id then some (.frameSetspeed id (combine hi lo)) else none
    | _ => none
  else if code = c.codeMoveto then
    match payload with
    | [id, lo, hi] => if frameIdWf id then some (.frameMoveto id (combine hi lo)) else none
    | _ => none
  else if code = c.codeStoprecover then
    if payload = c.stopPayload then some .frameStoprecover else none
  else if code = c.codeActiongroup then
    if framePayloadWf payload then some (.frameActiongroup payload) else none
  else none

/-- A frame's reader: the header, then byte 1 tells the kind (30_encoding.md R74, R82). -/
def decodeFrame (c : Config) (bytes : List Byte) : Option Instr :=
  if bytes = c.statusQuery then some .frameStatusquery
  else
    match bytes with
    | first :: code :: payload => if first = c.header then decodePayload c code payload else none
    | _ => none

/-- The row PATTERN_STATUS_ANSWER: `F0 12 00 00` (30_encoding.md R81). -/
def answerBytes : List Byte := [0xF0, 0x12, 0x00, 0x00]

/-- Where an instruction's bits stand: on the request port, in a frame, or in a received chunk. -/
inductive Code where
  | request (w : ReqWord)
  | frame (bytes : List Byte)
  | pattern (bytes : List Byte)
  deriving DecidableEq, Repr

/-- The encoding of an instruction under the values of 00_scope.md R7. -/
def encode (i : Instr) : Code :=
  match encodeRequest i with
  | some w => .request w
  | none =>
    match encodeFrame Config.standard i with
    | some bytes => .frame bytes
    | none => .pattern answerBytes

/-- The instruction that stands in some bits; none where they are no instruction. -/
def decode : Code → Option Instr
  | .request w =>
    match decodeRequest w with
    | .ok i => some i
    | .illegal _ => none
  | .frame bytes => decodeFrame Config.standard bytes
  | .pattern bytes => if bytes = answerBytes then some .patternStatusAnswer else none

/-! The numbering of spec/opcode_table.json: a row is one number whose MOST significant byte is a frame's byte 0 and
whose bit 31 is a request's bit 31 (log 13). -/

/-- The `n` bytes of a number, the most significant first. -/
def bytesOfNumber : Nat → Nat → List Byte
  | 0, _ => []
  | n + 1, w => BitVec.ofNat 8 (w / 256 ^ n) :: bytesOfNumber n w

/-- The bytes that `nbits` of a number stand for, followed by zeros up to the longest frame when the table gives only
the first two bytes of the row (FRAME_ACTIONGROUP). -/
def tableBytes (nbits w : Nat) : List Byte :=
  bytesOfNumber (nbits / 8) w ++ (if nbits = 16 then [0, 0, 0, 0] else [])

/-- Where the bits of a table row stand. A number of 32 bits is a request word, unless it is no legal request and is
the status answer's or a frame's bytes. -/
def tableCode (nbits w : Nat) : Code :=
  if nbits = 32 then
    match decodeRequest (BitVec.ofNat 32 w) with
    | .ok _ => .request (BitVec.ofNat 32 w)
    | .illegal _ =>
      if tableBytes nbits w = answerBytes then .pattern answerBytes
      else if (decodeFrame Config.standard (tableBytes nbits w)).isSome then .frame (tableBytes nbits w)
      else .request (BitVec.ofNat 32 w)
  else .frame (tableBytes nbits w)

/-- The instruction the decoder reads from a table row's bits. -/
def decodeTableWord (nbits w : Nat) : Option Instr := decode (tableCode nbits w)

end Sys2Proof
end

