-- ==== Sys2Proof/Machine/State.lean ====
section
/-! DEFINITION. The state of the block (10_state.md), its ports, and the observation (00_scope.md R6), as plain data;
the reasons a step can stop. -/

namespace Sys2Proof.Machine

/-- PHASE (10_state.md R23). -/
inductive Phase where
  | idle
  | busy
  | done
  deriving DecidableEq, Repr

/-- STEP (10_state.md R25): the running operation's first line, or the label of its next port event. -/
inductive SeqStep where
  /-- The operation's first line. -/
  | start
  /-- MOVE_SERVO's first `TxWrite` (43_session_ops.md R161). -/
  | writeSpeed
  /-- MOVE_SERVO's second `TxWrite` (43_session_ops.md R161). -/
  | writeMove
  /-- PROBE's `TxWrite` (43_session_ops.md R160). -/
  | writeQuery
  /-- The one `TxWrite` of EMERGENCY_STOP, RECOVER and START_ACTION_GROUP (43_session_ops.md R162 to R164). -/
  | writeOnly
  /-- The matcher's `RxRead` (42_response_matcher.md R140). -/
  | poll
  /-- The matcher's `Delay` (42_response_matcher.md R140). -/
  | wait
  deriving DecidableEq, Repr

/-- The result statuses (60_exceptions.md R200). -/
inductive Status where
  | ok
  | validationError
  | transportWriteFailure
  | illegalRequest
  | unmatched
  | transportReadFailure
  deriving DecidableEq, Repr

/-- The matcher outcomes, RES.match (10_state.md R31). -/
inductive MatchOutcome where
  | matched
  | unmatched
  | transportFailure
  deriving DecidableEq, Repr

/-- The probe outcomes, RES.live (10_state.md R31). -/
inductive Liveness where
  | online
  | offline
  deriving DecidableEq, Repr

/-- RES, the result record (10_state.md R31): a field an operation does not set is absent, `none`. -/
structure Result where
  status : Option Status
  info : Option Byte
  value : Option Half
  hi : Option Byte
  lo : Option Byte
  frame : Option (List Byte)
  log : Option (List Byte)
  polls : Option Byte
  outcome : Option MatchOutcome
  live : Option Liveness
  deriving DecidableEq, Repr

/-- No field set. -/
def Result.empty : Result where
  status := none
  info := none
  value := none
  hi := none
  lo := none
  frame := none
  log := none
  polls := none
  outcome := none
  live := none

/-- What one completed `RxRead` returns (00_scope.md R11). -/
inductive Chunk where
  | bytes (xs : List Byte)
  | empty
  | readError
  deriving DecidableEq, Repr

/-- The events of the trace (00_scope.md R6, R11; 10_state.md R33). -/
inductive Event where
  | tx (frame : List Byte) (ok : Bool)
  | rx (chunk : Chunk)
  | delay (ms : Half)
  | result (res : Result)
  deriving DecidableEq, Repr

/-- One sample of the reset input (10_state.md R37). Asserted inside a transaction, it says how many of the frame's
first bytes an interrupted `TxWrite` had sent, and whether an interrupted `RxRead` had taken the next chunk out of the
transport (70_reset_and_hazards.md R231; log 20). -/
inductive RstSample where
  | low
  | high (sent : Nat) (taken : Bool)
  deriving DecidableEq, Repr

/-- The state: the block's registers, what the environment will answer, and what has been observed. -/
structure State where
  /-- CFG (R20): read-only. -/
  cfg : Config
  /-- PHASE (R23). -/
  phase : Phase
  /-- REQ (R24). -/
  req : ReqWord
  /-- STEP (R25). -/
  stepAt : SeqStep
  /-- FRAME (R26). -/
  frame : List Byte
  /-- POLLS (R27). -/
  polls : Byte
  /-- LOG (R28). -/
  log : List Byte
  /-- WFAIL (R29). -/
  wfail : Bool
  /-- RES (R31). -/
  res : Result
  /-- The samples of `rst` still to come, one a step; past the end it is deasserted (R37; log 20). -/
  rstIn : List RstSample
  /-- The request words waiting on the request port (R32; log 8). -/
  reqIn : List ReqWord
  /-- The samples of `res_ready` still to come, one for each step in DONE (R33; log 7). -/
  resReadyIn : List ReadySample
  /-- The oracle's coming answers to `TxWrite` (R34; log 2). -/
  txIn : List TxAnswer
  /-- The oracle's coming answers to `RxRead` (R35; log 2). -/
  rxIn : List RxAnswer
  /-- The model's own: free answers to `TxWrite` drawn so far (log 2). -/
  txDraws : Nat
  /-- The model's own: free answers to `RxRead` drawn so far (log 2). -/
  rxDraws : Nat
  /-- The model's own: free samples of `res_ready` drawn so far (log 7). -/
  readyDraws : Nat
  /-- The event trace, oldest first (00_scope.md R6; log 16). -/
  trace : List Event
  /-- The bytes that reached the line (20_memory.md R51, R59; log 16). -/
  line : List Byte
  deriving DecidableEq, Repr

/-- The state right after reset, with nothing offered and nothing observed (10_state.md R41; 70_reset_and_hazards.md
R230). REQ, STEP and RES have no value there by the spec: the word 0, the first line and no field set are this model's
choice (log 6). -/
def State.reset : State where
  cfg := Config.standard
  phase := .idle
  req := 0
  stepAt := .start
  frame := []
  polls := 0
  log := []
  wfail := false
  res := Result.empty
  rstIn := []
  reqIn := []
  resReadyIn := []
  txIn := []
  rxIn := []
  txDraws := 0
  rxDraws := 0
  readyDraws := 0
  trace := []
  line := []

/-- Why the machine stops with a fault. -/
inductive Fault where
  /-- Raised by a request's meaning when STEP is at a line that this operation does not have (10_state.md R25; log 15).
  No run from an accepted request reaches it. Safe: the model stops where the spec has no state. -/
  | offSequence
  deriving DecidableEq, Repr

/-- Why the machine refuses. -/
inductive Refusal where
  /-- Raised by the dispatch for an instruction without a meaning, by its mnemonic. Safe. -/
  | notModelled (mnemonic : String)
  /-- Raised by the step for an ill-formed configuration (00_scope.md R8; 60_exceptions.md R207; log 9): "A model
  refuses it." Safe. -/
  | illFormedConfig
  /-- Raised by the meaning of a wire frame that is not the one the running operation is about to write
  (41_frame_encoder.md R126: "the block has no raw-send operation"; log 12). Safe. -/
  | noRawSend
  /-- Raised by the meaning of the status-answer pattern when the matcher is not about to read for it
  (42_response_matcher.md R140, R147; log 12). Safe. -/
  | notPolling
  deriving DecidableEq, Repr

end Sys2Proof.Machine
end

