-- ==== Sys2Proof/Machine/Flags.lean ====
section
/-! DEFINITION. The block has no flags (10_state.md R31): its only condition output is the result record. Here are the
numbers of its codes (60_exceptions.md R200 to R202) and the records that `return` and `raise` deliver. -/

namespace Sys2Proof.Machine

/-- The 4-bit code of a status (60_exceptions.md R200). -/
def Status.code : Status → BitVec 4
  | .ok => 0x0
  | .validationError => 0x1
  | .transportWriteFailure => 0x2
  | .illegalRequest => 0x3
  | .unmatched => 0x4
  | .transportReadFailure => 0x5

/-! The info bytes of VALIDATION_ERROR (60_exceptions.md R201). -/

def infoId : Byte := 0x01
def infoAngle : Byte := 0x02
def infoSpeed : Byte := 0x03
def infoPulse : Byte := 0x04
def infoUnits : Byte := 0x05

/-! The info bytes of TRANSPORT_WRITE_FAILURE (60_exceptions.md R202). -/

def infoFirstWrite : Byte := 0x01
def infoSecondWrite : Byte := 0x02
def infoBothWrites : Byte := 0x03

/-- `OK()` (00_scope.md R11). -/
def Result.ok : Result := { Result.empty with status := some .ok }

/-- `OK(value = v)`. -/
def Result.okValue (v : Half) : Result := { Result.ok with value := some v }

/-- `OK(hi = h, lo = l)` (40_conversion.md R107). -/
def Result.okHalves (h l : Byte) : Result := { Result.ok with hi := some h, lo := some l }

/-- `OK(frame = f)` (41_frame_encoder.md). -/
def Result.okFrame (f : List Byte) : Result := { Result.ok with frame := some f }

/-- What `raise <Status>(info)` delivers: status and info, every other field absent (60_exceptions.md R204). -/
def Result.error (status : Status) (info : Byte) : Result :=
  { Result.empty with status := some status, info := some info }

/-- The status of MATCH_RESPONSE for a matcher outcome (42_response_matcher.md R147). -/
def matchStatus : MatchOutcome → Status
  | .matched => .ok
  | .unmatched => .unmatched
  | .transportFailure => .transportReadFailure

/-- The result of MATCH_RESPONSE (42_response_matcher.md R147): info stays absent (60_exceptions.md R202). -/
def Result.ofMatch (o : MatchOutcome) (log : List Byte) (polls : Byte) : Result :=
  { Result.empty with status := some (matchStatus o), outcome := some o, log := some log, polls := some polls }

/-- The liveness PROBE derives from a matcher outcome (43_session_ops.md R160). -/
def liveOf : MatchOutcome → Liveness
  | .matched => .online
  | .unmatched => .offline
  | .transportFailure => .offline

/-- The result of a PROBE that polled (43_session_ops.md R160). -/
def Result.ofProbe (o : MatchOutcome) (log : List Byte) (polls : Byte) : Result :=
  { Result.ok with live := some (liveOf o), outcome := some o, log := some log, polls := some polls }

/-- The result of a PROBE whose StatusQuery write failed (43_session_ops.md R160, decision D14): match absent. -/
def Result.probeUnsent : Result :=
  { Result.ok with live := some .offline, log := some [], polls := some 0 }

/-- When the `move` command line exits zero (30_encoding.md R86): exactly when the status is OK. -/
def moveExitsZero (r : Result) : Bool := r.status = some .ok

end Sys2Proof.Machine
end

