-- ==== Sys2Proof/Machine/Ops.lean ====
section
/-! DEFINITION. The shared operations: the working registers' updates, the port primitives (00_scope.md R11), raise and
return (60_exceptions.md R204, R205), the two handshakes (10_state.md R32, R33), reset (70_reset_and_hazards.md R230,
R231), the match tests (42_response_matcher.md R142, R143) and the configuration check (00_scope.md R8). -/

namespace Sys2Proof.Machine

/-- What a step and a meaning answer. -/
abbrev Out := Host.Outcome State Fault Refusal

/-! The updates of the registers and of the observation, one each. -/

def State.setReq (s : State) (w : ReqWord) : State := { s with req := w }
def State.setPhase (s : State) (p : Phase) : State := { s with phase := p }
def State.setStep (s : State) (p : SeqStep) : State := { s with stepAt := p }
def State.setFrame (s : State) (f : List Byte) : State := { s with frame := f }
def State.setPolls (s : State) (n : Byte) : State := { s with polls := n }
def State.setLog (s : State) (xs : List Byte) : State := { s with log := xs }
def State.setWfail (s : State) (b : Bool) : State := { s with wfail := b }
def State.setRes (s : State) (r : Result) : State := { s with res := r }

/-- An event is recorded (00_scope.md R11). -/
def State.record (s : State) (e : Event) : State := { s with trace := s.trace ++ [e] }

/-- Bytes reach the line, in order (20_memory.md R51). -/
def State.putLine (s : State) (bs : List Byte) : State := { s with line := s.line ++ bs }

/-! The outputs of the ports. -/

/-- `req_ready = (PHASE = IDLE)` (10_state.md R32). -/
def State.reqReady (s : State) : Bool := s.phase = .idle

/-- `res_valid = (PHASE = DONE)` (10_state.md R33). -/
def State.resValid (s : State) : Bool := s.phase = .done

/-! `return` and `raise`. -/

/-- `return`: RES is set and the operation is over (00_scope.md R11; 10_state.md R25). -/
def finish (r : Result) (s : State) : State := (s.setRes r).setPhase .done

/-- `raise`: the block's "trap" entry (60_exceptions.md R204). Nothing is saved and no other port event happens. -/
def raise (status : Status) (info : Byte) (s : State) : State := finish (Result.error status info) s

/-- Operand validation before any port event (60_exceptions.md R203): the first failing check raises. -/
def validated (checks : List (Bool × Byte)) (s : State) (go : State → State) : State :=
  match firstBad checks with
  | some info => raise .validationError info s
  | none => go s

/-! The TX port. -/

/-- The oracle's answer to the next `TxWrite`. -/
def State.nextTx (s : State) : TxAnswer :=
  match s.txIn with
  | [] => Config.freeTx s.txDraws
  | a :: _ => a

/-- That answer is used up. -/
def State.dropTx (s : State) : State :=
  match s.txIn with
  | [] => { s with txDraws := s.txDraws + 1 }
  | _ :: rest => { s with txIn := rest }

/-- `ok <- TxWrite(FRAME)` and what follows it (00_scope.md R11; 10_state.md R34). A failed write may have put any
prefix of the frame on the line (20_memory.md R59); a write that never completes leaves the block as it is, BUSY
(60_exceptions.md R207). -/
def txWrite (s : State) (resume : Bool → State → State) : State :=
  match s.nextTx with
  | .accepted => resume true ((s.dropTx.putLine s.frame).record (.tx s.frame true))
  | .failed sent => resume false ((s.dropTx.putLine (s.frame.take sent)).record (.tx s.frame false))
  | .never => s

/-! The RX port. -/

/-- The oracle's answer to the next `RxRead`. -/
def State.nextRx (s : State) : RxAnswer :=
  match s.rxIn with
  | [] => Config.freeRx s.rxDraws
  | a :: _ => a

/-- That answer is used up. -/
def State.dropRx (s : State) : State :=
  match s.rxIn with
  | [] => { s with rxDraws := s.rxDraws + 1 }
  | _ :: rest => { s with rxIn := rest }

/-- The chunk an answer delivers, of 1 to CHUNK_MAX bytes (10_state.md R35; log 3); none for an answer that never comes. -/
def chunkOf (chunkMax : Nat) : RxAnswer → Option Chunk
  | .bytes x xs => some (.bytes (x :: xs.take (chunkMax - 1)))
  | .empty => some .empty
  | .readError => some .readError
  | .never => none

/-- `c <- RxRead()` and what follows it (00_scope.md R11). -/
def rxRead (s : State) (resume : Chunk → State → State) : State :=
  match chunkOf s.cfg.chunkMax s.nextRx with
  | some c => resume c (s.dropRx.record (.rx c))
  | none => s

/-! The delay port. -/

/-- `Delay(ms)`: the event and nothing else (10_state.md R36; 70_reset_and_hazards.md R250). -/
def delayFor (ms : Half) (s : State) : State := s.record (.delay ms)

/-! The match tests. -/

/-- Whether a list holds another as a run of neighbours. -/
def hasRun {α : Type} [DecidableEq α] (pattern : List α) : List α → Bool
  | [] => pattern.isPrefixOf []
  | x :: xs => pattern.isPrefixOf (x :: xs) || hasRun pattern xs

/-- A hex digit, lower-case (00_scope.md R10). -/
def hexDigit (v : Nat) : Char :=
  if v < 10 then Char.ofNat (48 + v) else Char.ofNat (87 + v)

/-- `hex(xs)`: two digits a byte, no separators (00_scope.md R10). -/
def hexText : List Byte → List Char
  | [] => []
  | x :: xs => hexDigit (x.toNat / 16) :: hexDigit (x.toNat % 16) :: hexText xs

/-- `chunk_matches(xs, p)` under MATCH_ALIGN (42_response_matcher.md R141 to R143). -/
def chunkMatches (align : MatchAlign) (xs pattern : List Byte) : Bool :=
  match align with
  | .byte => hasRun pattern xs
  | .nibble => hasRun (hexText pattern) (hexText xs)

/-! The handshakes. -/

/-- The request port in IDLE: a waiting request is accepted (10_state.md R32); with none the block waits. -/
def accept (s : State) : State :=
  match s.reqIn with
  | [] => s
  | w :: rest => { s with req := w, phase := .busy, stepAt := .start, reqIn := rest }

/-- The sample of `res_ready` for this step. -/
def State.nextReady (s : State) : ReadySample :=
  match s.resReadyIn with
  | [] => Config.freeReady s.readyDraws
  | x :: _ => x

/-- That sample is used up. -/
def State.dropReady (s : State) : State :=
  match s.resReadyIn with
  | [] => { s with readyDraws := s.readyDraws + 1 }
  | _ :: rest => { s with resReadyIn := rest }

/-- The result port in DONE (10_state.md R33): where the caller is ready the result is delivered and recorded and the
block is IDLE; else RES stays. A caller that never takes the result leaves the block as it is, DONE (60_exceptions.md
R207). It is also the return from an error (60_exceptions.md R205). -/
def deliver (s : State) : State :=
  match s.nextReady with
  | .high => (s.dropReady.record (.result s.res)).setPhase .idle
  | .low => s.dropReady
  | .never => s

/-! Reset. -/

/-- The sample of `rst` for this step (10_state.md R37); past the end of the samples it is deasserted. -/
def State.rstNow (s : State) : RstSample :=
  match s.rstIn with
  | [] => .low
  | x :: _ => x

/-- That sample is used up. -/
def State.tick (s : State) : State := { s with rstIn := s.rstIn.tail }

/-- STEP is at a `TxWrite`. -/
def SeqStep.writes : SeqStep → Bool
  | .start => false
  | .writeSpeed => true
  | .writeMove => true
  | .writeQuery => true
  | .writeOnly => true
  | .poll => false
  | .wait => false

/-- What an interrupted `TxWrite` had put on the line (70_reset_and_hazards.md R231). -/
def resetSent (s : State) (sent : Nat) : List Byte :=
  if s.phase = .busy ∧ s.stepAt.writes = true then s.frame.take sent else []

/-- The answers left when an interrupted `RxRead` may have taken the next one, whose bytes are lost (R231). -/
def resetLost (s : State) (taken : Bool) : List RxAnswer :=
  if s.phase = .busy ∧ s.stepAt = .poll ∧ taken = true then s.rxIn.tail else s.rxIn

/-- Reset asserted (70_reset_and_hazards.md R230, R231; 10_state.md R41): the registers take their reset values, CFG
stays, no result is delivered, and the trace keeps what it has. -/
def resetBlock (s : State) (sent : Nat) (taken : Bool) : State :=
  { s with
    phase := State.reset.phase
    req := State.reset.req
    stepAt := State.reset.stepAt
    frame := State.reset.frame
    polls := State.reset.polls
    log := State.reset.log
    wfail := State.reset.wfail
    res := State.reset.res
    rxIn := resetLost s taken
    line := s.line ++ resetSent s sent }

/-! The configuration. -/

/-- A well-formed configuration (00_scope.md R8 and the legal values of 10_state.md R21). AG_PAYLOAD's length and the
ranges of the fields hold by their types. -/
def configWf (c : Config) : Bool :=
  decide (c.statusAnswer ≠ []) &&
  decide (c.statusQuery.length = 5) && decide (c.statusQuery.head? = some c.header) &&
  decide (c.stopPayload.length = 3) &&
  decide (1 ≤ c.chunkMax) &&
  decide (c.angleClampMin.toNat ≤ c.angleMax.toNat) &&
  decide (1 ≤ c.speedDiv.toNat) &&
  decide (c.pwMin.toNat ≤ c.pwMax.toNat) &&
  decide (c.speedMin.toNat ≤ c.speedMax.toNat) &&
  decide (c.unitsMin.toNat ≤ c.unitsMax.toNat)

end Sys2Proof.Machine
end

