-- ==== Sys2Proof/Machine/Convert.lean ====
section
/-! DEFINITION. The unit converter's operations (40_conversion.md R105 to R108). Each is one line of validation and a
return; none performs a port event or writes a working register. -/

namespace Sys2Proof.Machine

/-- CONV_ANGLE (40_conversion.md R105). -/
def execConvAngle (angle : Half) (s : State) : Out :=
  .next (validated [(angleOut s.cfg angle.toNat, infoAngle)] s
    (finish (Result.okValue (pulseOf s.cfg angle.toNat))))

/-- CONV_SPEED (40_conversion.md R106). -/
def execConvSpeed (speed : Half) (s : State) : Out :=
  .next (validated [(speedOut s.cfg speed.toNat, infoSpeed)] s
    (finish (Result.okValue (unitsOf s.cfg speed.toNat))))

/-- SPLIT16 (40_conversion.md R107). -/
def execSplit16 (value : Half) (s : State) : Out :=
  .next (finish (Result.okHalves (splitHalf value).1 (splitHalf value).2) s)

/-- ID_BYTE (40_conversion.md R108). -/
def execIdByte (id : Byte) (s : State) : Out :=
  .next (validated [(idOut s.cfg id, infoId)] s
    (finish (Result.okValue ((idByteOf id).setWidth 16))))

end Sys2Proof.Machine
end

