-- ==== Sys2Proof/Machine/Encoder.lean ====
section
/-! DEFINITION. The frame encoder's operations (41_frame_encoder.md R120 to R124). They write FRAME and return it; none
transmits (R126). -/

namespace Sys2Proof.Machine

/-- `FRAME <- f` and `return OK(frame = FRAME)`. -/
def returnFrame (f : List Byte) (s : State) : State := finish (Result.okFrame f) (s.setFrame f)

/-- ENC_SETSPEED (41_frame_encoder.md R120). -/
def execEncSetspeed (id : Byte) (units : Half) (s : State) : Out :=
  .next (validated [(idOut s.cfg id, infoId), (unitsOut s.cfg units, infoUnits)] s
    (returnFrame (setspeedBytes s.cfg id units)))

/-- ENC_MOVETO (41_frame_encoder.md R121). -/
def execEncMoveto (id : Byte) (pw : Half) (s : State) : Out :=
  .next (validated [(idOut s.cfg id, infoId), (pwOut s.cfg pw, infoPulse)] s
    (returnFrame (movetoBytes s.cfg id pw)))

/-- ENC_ACTIONGROUP (41_frame_encoder.md R122). -/
def execEncActiongroup (s : State) : Out := .next (returnFrame (actiongroupBytes s.cfg) s)

/-- ENC_STOPRECOVER (41_frame_encoder.md R123). -/
def execEncStoprecover (mode : StopMode) (s : State) : Out := .next (returnFrame (stoprecoverBytes s.cfg mode) s)

/-- ENC_STATUSQUERY (41_frame_encoder.md R124). -/
def execEncStatusquery (s : State) : Out := .next (returnFrame (statusqueryBytes s.cfg) s)

end Sys2Proof.Machine
end

