-- ==== Sys2Proof/Machine/Matcher.lean ====
section
/-! DEFINITION. The response matcher (42_response_matcher.md): the run `match_run(pattern, n, d)` cut at its port
events, shared by MATCH_RESPONSE and PROBE, and the operation MATCH_RESPONSE. -/

namespace Sys2Proof.Machine

/-- The head of the loop (42_response_matcher.md R140): the budget is spent, or the next line is `RxRead`. -/
def matchLoop (n : Byte) (fin : MatchOutcome → State → State) (s : State) : State :=
  if s.polls = n then fin .unmatched s else s.setStep .poll

/-- The start of a run (42_response_matcher.md R140): `POLLS <- 0`, `LOG <- []`, then the loop. -/
def matchStart (n : Byte) (fin : MatchOutcome → State → State) (s : State) : State :=
  matchLoop n fin ((s.setPolls 0).setLog [])

/-- After `c <- RxRead()` (42_response_matcher.md R140, R141): count the poll; a read error ends the run; bytes are
appended first and then tested, on this chunk alone; otherwise the next line is `Delay`. -/
def afterRead (pattern : List Byte) (fin : MatchOutcome → State → State) (c : Chunk) (s : State) : State :=
  match c with
  | .readError => fin .transportFailure (s.setPolls (s.polls + 1))
  | .empty => (s.setPolls (s.polls + 1)).setStep .wait
  | .bytes xs =>
    if chunkMatches s.cfg.matchAlign xs pattern then fin .matched ((s.setPolls (s.polls + 1)).setLog (s.log ++ xs))
    else ((s.setPolls (s.polls + 1)).setLog (s.log ++ xs)).setStep .wait

/-- The poll at STEP `poll`. -/
def matchPoll (pattern : List Byte) (fin : MatchOutcome → State → State) (s : State) : State :=
  rxRead s (afterRead pattern fin)

/-- The delay at STEP `wait`, and the loop again. -/
def matchWait (n : Byte) (d : Half) (fin : MatchOutcome → State → State) (s : State) : State :=
  matchLoop n fin (delayFor d s)

/-- How MATCH_RESPONSE returns (42_response_matcher.md R147). -/
def matchReturn (o : MatchOutcome) (s : State) : State := finish (Result.ofMatch o s.log s.polls) s

/-- MATCH_RESPONSE (42_response_matcher.md R147). -/
def execMatchResponse (n : Byte) (d : Half) (s : State) : Out :=
  match s.stepAt with
  | .start => .next (matchStart n matchReturn s)
  | .poll => .next (matchPoll s.cfg.statusAnswer matchReturn s)
  | .wait => .next (matchWait n d matchReturn s)
  | .writeSpeed => .fault .offSequence
  | .writeMove => .fault .offSequence
  | .writeQuery => .fault .offSequence
  | .writeOnly => .fault .offSequence

end Sys2Proof.Machine
end

