-- ==== Sys2Proof/Machine/Session.lean ====
section
/-! DEFINITION. The session operations (43_session_ops.md R160 to R164): their pseudocode cut at its port events. -/

namespace Sys2Proof.Machine

/-! PROBE. -/

/-- How PROBE returns once the matcher ran (43_session_ops.md R160): the status is always OK. -/
def probeReturn (o : MatchOutcome) (s : State) : State := finish (Result.ofProbe o s.log s.polls) s

/-- After the StatusQuery write (43_session_ops.md R160): a failed one gives OFFLINE with no read (decision D14). -/
def afterQuery (ok : Bool) (s : State) : State :=
  if ok then matchStart s.cfg.probePolls probeReturn s else finish Result.probeUnsent s

/-- PROBE (43_session_ops.md R160). -/
def execProbe (s : State) : Out :=
  match s.stepAt with
  | .start => .next ((s.setFrame (statusqueryBytes s.cfg)).setStep .writeQuery)
  | .writeQuery => .next (txWrite s afterQuery)
  | .poll => .next (matchPoll s.cfg.statusAnswer probeReturn s)
  | .wait => .next (matchWait s.cfg.probePolls s.cfg.probeIntervalMs probeReturn s)
  | .writeSpeed => .fault .offSequence
  | .writeMove => .fault .offSequence
  | .writeOnly => .fault .offSequence

/-! MOVE_SERVO. -/

/-- The next line is the MoveTo write. -/
def readyMove (id angle : Byte) (s : State) : State :=
  (s.setFrame (movetoBytes s.cfg id (pulseOf s.cfg angle.toNat))).setStep .writeMove

/-- After the SetSpeed write (43_session_ops.md R161, decision D15). -/
def afterSpeed (id angle : Byte) (ok : Bool) (s : State) : State :=
  if ok then readyMove id angle s
  else if s.cfg.moveOnSpeedFail then readyMove id angle (s.setWfail true)
  else raise .transportWriteFailure infoFirstWrite s

/-- After the MoveTo write (43_session_ops.md R161 step 4): both must succeed. -/
def afterMove (pw : Half) (ok : Bool) (s : State) : State :=
  if ok = false ∧ s.wfail = true then raise .transportWriteFailure infoBothWrites s
  else if ok = false then raise .transportWriteFailure infoSecondWrite s
  else if s.wfail then raise .transportWriteFailure infoFirstWrite s
  else finish (Result.okValue pw) s

/-- The lines of MOVE_SERVO up to its first write, once the operands are valid: `WFAIL <- 0` and the SetSpeed frame
(43_session_ops.md R161 steps 2 and 3). -/
def readySpeed (id speed : Byte) (s : State) : State :=
  ((s.setWfail false).setFrame (setspeedBytes s.cfg id (unitsOf s.cfg speed.toNat))).setStep .writeSpeed

/-- The checks of MOVE_SERVO in their order: id, angle, speed (43_session_ops.md R161 step 1, decision D17). -/
def moveChecks (c : Config) (id angle speed : Byte) : List (Bool × Byte) :=
  [(idOut c id, infoId), (angleOut c angle.toNat, infoAngle), (speedOut c speed.toNat, infoSpeed)]

/-- MOVE_SERVO (43_session_ops.md R161). -/
def execMoveServo (id angle speed : Byte) (s : State) : Out :=
  match s.stepAt with
  | .start => .next (validated (moveChecks s.cfg id angle speed) s (readySpeed id speed))
  | .writeSpeed => .next (txWrite s (afterSpeed id angle))
  | .writeMove => .next (txWrite s (afterMove (pulseOf s.cfg angle.toNat)))
  | .writeQuery => .fault .offSequence
  | .writeOnly => .fault .offSequence
  | .poll => .fault .offSequence
  | .wait => .fault .offSequence

/-! The fire-and-forget operations. -/

/-- After the one write (43_session_ops.md R162): success, or TRANSPORT_WRITE_FAILURE. -/
def afterOnly (ok : Bool) (s : State) : State :=
  if ok then finish Result.ok s else raise .transportWriteFailure infoFirstWrite s

/-- One frame, no read (43_session_ops.md R162, R165). -/
def fireAndForget (f : List Byte) (s : State) : Out :=
  match s.stepAt with
  | .start => .next ((s.setFrame f).setStep .writeOnly)
  | .writeOnly => .next (txWrite s afterOnly)
  | .writeSpeed => .fault .offSequence
  | .writeMove => .fault .offSequence
  | .writeQuery => .fault .offSequence
  | .poll => .fault .offSequence
  | .wait => .fault .offSequence

/-- EMERGENCY_STOP (43_session_ops.md R162). -/
def execEmergencyStop (s : State) : Out := fireAndForget (stoprecoverBytes s.cfg .stop) s

/-- RECOVER (43_session_ops.md R163). -/
def execRecover (s : State) : Out := fireAndForget (stoprecoverBytes s.cfg .recover) s

/-- START_ACTION_GROUP (43_session_ops.md R164). -/
def execStartActionGroup (s : State) : Out := fireAndForget (actiongroupBytes s.cfg) s

end Sys2Proof.Machine
end

