-- ==== Sys2Proof/Machine/Wire.lean ====
section
/-! DEFINITION. The rows of the opcode table that are no requests: the wire frames (30_encoding.md R75 to R80) and the
status answer (R81). A frame is what the TX port writes in one transaction (00_scope.md R10), and only the session
operations write (41_frame_encoder.md R126): its meaning is that transaction within the running operation. The pattern
is what the matcher reads for: its meaning is the matcher's poll within the running operation. Log 12. -/

namespace Sys2Proof.Machine

/-- The operation that runs, of those that write (41_frame_encoder.md R126). -/
def sessionWrite (i : Instr) (s : State) : Out :=
  match i with
  | .convAngle _ => .refused .noRawSend
  | .convSpeed _ => .refused .noRawSend
  | .split16 _ => .refused .noRawSend
  | .idByte _ => .refused .noRawSend
  | .encSetspeed _ _ => .refused .noRawSend
  | .encMoveto _ _ => .refused .noRawSend
  | .encActiongroup => .refused .noRawSend
  | .encStoprecover _ => .refused .noRawSend
  | .encStatusquery => .refused .noRawSend
  | .matchResponse _ _ => .refused .noRawSend
  | .probe => execProbe s
  | .moveServo id angle speed => execMoveServo id angle speed s
  | .emergencyStop => execEmergencyStop s
  | .recover => execRecover s
  | .startActionGroup => execStartActionGroup s
  | .frameSetspeed _ _ => .refused .noRawSend
  | .frameMoveto _ _ => .refused .noRawSend
  | .frameStoprecover => .refused .noRawSend
  | .frameStatusquery => .refused .noRawSend
  | .frameActiongroup _ => .refused .noRawSend
  | .patternStatusAnswer => .refused .noRawSend

/-- The `TxWrite` of the session operation in REQ. -/
def runningWrite (s : State) : Out :=
  match decodeRequest s.req with
  | .ok i => sessionWrite i s
  | .illegal _ => .refused .noRawSend

/-- The transaction of a frame, where it is the frame in FRAME and the next port event writes it. -/
def writeDue (f : List Byte) (s : State) : Out :=
  if s.phase = .busy ∧ s.stepAt.writes = true ∧ s.frame = f then runningWrite s else .refused .noRawSend

/-- FRAME_SETSPEED (30_encoding.md R76): written by MOVE_SERVO. -/
def execFrameSetspeed (id : Byte) (units : Half) (s : State) : Out := writeDue (setspeedBytes s.cfg id units) s

/-- FRAME_MOVETO (30_encoding.md R77): written by MOVE_SERVO. -/
def execFrameMoveto (id : Byte) (pw : Half) (s : State) : Out := writeDue (movetoBytes s.cfg id pw) s

/-- FRAME_STOPRECOVER (30_encoding.md R78): written by EMERGENCY_STOP and RECOVER. -/
def execFrameStoprecover (s : State) : Out := writeDue (stoprecoverBytes s.cfg .stop) s

/-- FRAME_STATUSQUERY (30_encoding.md R79): written by PROBE. -/
def execFrameStatusquery (s : State) : Out := writeDue (statusqueryBytes s.cfg) s

/-- FRAME_ACTIONGROUP (30_encoding.md R80): written by START_ACTION_GROUP. -/
def execFrameActiongroup (payload : List Byte) (s : State) : Out := writeDue (actiongroupBytesOf s.cfg payload) s

/-- The operation that runs, of those that read (42_response_matcher.md R147). -/
def matcherPoll (i : Instr) (s : State) : Out :=
  match i with
  | .convAngle _ => .refused .notPolling
  | .convSpeed _ => .refused .notPolling
  | .split16 _ => .refused .notPolling
  | .idByte _ => .refused .notPolling
  | .encSetspeed _ _ => .refused .notPolling
  | .encMoveto _ _ => .refused .notPolling
  | .encActiongroup => .refused .notPolling
  | .encStoprecover _ => .refused .notPolling
  | .encStatusquery => .refused .notPolling
  | .matchResponse n d => execMatchResponse n d s
  | .probe => execProbe s
  | .moveServo _ _ _ => .refused .notPolling
  | .emergencyStop => .refused .notPolling
  | .recover => .refused .notPolling
  | .startActionGroup => .refused .notPolling
  | .frameSetspeed _ _ => .refused .notPolling
  | .frameMoveto _ _ => .refused .notPolling
  | .frameStoprecover => .refused .notPolling
  | .frameStatusquery => .refused .notPolling
  | .frameActiongroup _ => .refused .notPolling
  | .patternStatusAnswer => .refused .notPolling

/-- The poll of the operation in REQ. -/
def runningPoll (s : State) : Out :=
  match decodeRequest s.req with
  | .ok i => matcherPoll i s
  | .illegal _ => .refused .notPolling

/-- PATTERN_STATUS_ANSWER (30_encoding.md R81): the matcher's next poll, where this is the pattern it looks for. -/
def execPatternStatusAnswer (s : State) : Out :=
  if s.phase = .busy ∧ s.stepAt = .poll ∧ s.cfg.statusAnswer = answerBytes then runningPoll s
  else .refused .notPolling

/-- The row of the opcode table that the next port event is about, where there is one: the frame in FRAME at a
`TxWrite`, the status answer at an `RxRead`. -/
def wireInstr (s : State) : Option Instr :=
  match s.stepAt with
  | .start => none
  | .writeSpeed => decodeFrame s.cfg s.frame
  | .writeMove => decodeFrame s.cfg s.frame
  | .writeQuery => decodeFrame s.cfg s.frame
  | .writeOnly => decodeFrame s.cfg s.frame
  | .poll => if s.cfg.statusAnswer = answerBytes then some .patternStatusAnswer else none
  | .wait => none

/-- What a step in BUSY runs: REQ decoded (30_encoding.md R72), and of a legal request the row that the next port event
is about where there is one, else the request itself (log 12). -/
def fetched (s : State) : RequestDecode :=
  match decodeRequest s.req with
  | .illegal info => .illegal info
  | .ok i => .ok ((wireInstr s).getD i)

/-- A request that writes a given frame, and the line at which it writes it (43_session_ops.md R166): what must be
running for the frame to be the next port event (log 14). -/
def writerOf : Instr → ReqWord × SeqStep
  | .frameSetspeed id _ => (requestWord 0xC id 0x0009, .writeSpeed)
  | .frameMoveto id _ => (requestWord 0xC id 0x0009, .writeMove)
  | .frameStoprecover => (requestWord 0xD 0 0, .writeOnly)
  | .frameStatusquery => (requestWord 0xB 0 0, .writeQuery)
  | .frameActiongroup _ => (requestWord 0xF 0 0, .writeOnly)
  | .convAngle _ => (0, .start)
  | .convSpeed _ => (0, .start)
  | .split16 _ => (0, .start)
  | .idByte _ => (0, .start)
  | .encSetspeed _ _ => (0, .start)
  | .encMoveto _ _ => (0, .start)
  | .encActiongroup => (0, .start)
  | .encStoprecover _ => (0, .start)
  | .encStatusquery => (0, .start)
  | .matchResponse _ _ => (0, .start)
  | .probe => (0, .start)
  | .moveServo _ _ _ => (0, .start)
  | .emergencyStop => (0, .start)
  | .recover => (0, .start)
  | .startActionGroup => (0, .start)
  | .patternStatusAnswer => (0, .start)

end Sys2Proof.Machine
end

