-- ==== Sys2Proof/Machine/Dispatch.lean ====
section
/-! DEFINITION. The dispatch: one arm for every constructor of Instr. -/

namespace Sys2Proof.Machine

/-- What an instruction does in a state. -/
def exec (i : Instr) (s : State) : Host.Outcome State Fault Refusal :=
  match i with
  | .convAngle angle => Sys2Proof.Machine.execConvAngle angle s
  | .convSpeed speed => Sys2Proof.Machine.execConvSpeed speed s
  | .split16 value => Sys2Proof.Machine.execSplit16 value s
  | .idByte id => Sys2Proof.Machine.execIdByte id s
  | .encSetspeed id units => Sys2Proof.Machine.execEncSetspeed id units s
  | .encMoveto id pw => Sys2Proof.Machine.execEncMoveto id pw s
  | .encActiongroup => Sys2Proof.Machine.execEncActiongroup s
  | .encStoprecover mode => Sys2Proof.Machine.execEncStoprecover mode s
  | .encStatusquery => Sys2Proof.Machine.execEncStatusquery s
  | .matchResponse n d => Sys2Proof.Machine.execMatchResponse n d s
  | .probe => Sys2Proof.Machine.execProbe s
  | .moveServo id angle speed => Sys2Proof.Machine.execMoveServo id angle speed s
  | .emergencyStop => Sys2Proof.Machine.execEmergencyStop s
  | .recover => Sys2Proof.Machine.execRecover s
  | .startActionGroup => Sys2Proof.Machine.execStartActionGroup s
  | .frameSetspeed id units => Sys2Proof.Machine.execFrameSetspeed id units s
  | .frameMoveto id pw => Sys2Proof.Machine.execFrameMoveto id pw s
  | .frameStoprecover => Sys2Proof.Machine.execFrameStoprecover s
  | .frameStatusquery => Sys2Proof.Machine.execFrameStatusquery s
  | .frameActiongroup payload => Sys2Proof.Machine.execFrameActiongroup payload s
  | .patternStatusAnswer => Sys2Proof.Machine.execPatternStatusAnswer s

end Sys2Proof.Machine
end

