-- ==== Sys2Proof/Machine/Step.lean ====
section
/-! DEFINITION. One step of the block: a reset sample, an acceptance, a port event or the lines before it, a delivery
(00_scope.md R6; 10_state.md R25, R32, R33; log 1). -/

namespace Sys2Proof.Machine

/-- A step in BUSY: REQ is decoded first (30_encoding.md R72), an illegal one raises; else the operation in REQ runs on
from STEP, by the row that the next port event is about where there is one (log 12). -/
def stepBusy (s : State) : Out :=
  match fetched s with
  | .illegal info => .next (raise .illegalRequest info s)
  | .ok i => exec i s

/-- A step with reset deasserted, by PHASE (10_state.md R23, R32, R33). -/
def stepPhase (s : State) : Out :=
  match s.phase with
  | .idle => .next (accept s)
  | .busy => stepBusy s
  | .done => .next (deliver s)

/-- One step: an ill-formed configuration is refused (60_exceptions.md R207); the sample of `rst` comes first
(70_reset_and_hazards.md R230). -/
def step (s : State) : Host.Outcome State Fault Refusal :=
  if configWf s.cfg then
    match s.rstNow with
    | .low => stepPhase s.tick
    | .high sent taken => .next (resetBlock s.tick sent taken)
  else .refused .illFormedConfig

/-- `s` with the instruction of a table row's bits where the next step takes its instruction from, and nothing else
changed that this does not need (log 14): a request word is in REQ at its first line; a frame is in FRAME with a request
that writes it running; the status answer is the pattern of a running matcher. -/
def State.withFetchWord (s : State) (nbits w : Nat) : State :=
  match tableCode nbits w with
  | .request r => { s with rstIn := [], phase := .busy, stepAt := .start, req := r }
  | .frame bytes =>
    match decodeFrame Config.standard bytes with
    | some i => { s with rstIn := [], phase := .busy, stepAt := (writerOf i).2, req := (writerOf i).1, frame := bytes }
    | none => { s with frame := bytes }
  | .pattern bytes =>
    { s with
      rstIn := [], phase := .busy, stepAt := .poll, req := requestWord 0xB 0 0, polls := 0, log := []
      cfg := { s.cfg with statusAnswer := bytes } }

end Sys2Proof.Machine
end

