-- ==== Sys2Proof/Safety.lean ====
section
/-! DEFINITION. What a safe run is: the invariant of the block, and what it takes of the environment for a run to end. -/

namespace Sys2Proof.Machine

/-- The checks of MOVE_SERVO pass (43_session_ops.md R161 step 1). -/
def MoveLegal (c : Config) (id angle speed : Byte) : Prop := firstBad (moveChecks c id angle speed) = none

/-- STEP and the registers of a matcher run with budget `n` (42_response_matcher.md R140): about to read with polls
left, or about to wait after a poll; LOG holds at most CHUNK_MAX bytes for each poll (10_state.md R28). -/
def MatcherAt (n : Byte) (s : State) : Prop :=
  ((s.stepAt = .poll ∧ s.polls.toNat < n.toNat) ∨
    (s.stepAt = .wait ∧ 0 < s.polls.toNat ∧ s.polls.toNat ≤ n.toNat)) ∧
  s.log.length ≤ s.polls.toNat * s.cfg.chunkMax

/-- STEP is at a line of the operation past its first, with the registers that line reads as the pseudocode has set
them (10_state.md R25, R30; 43_session_ops.md). -/
def AtLine (s : State) : Instr → Prop
  | .moveServo id angle speed =>
    MoveLegal s.cfg id angle speed ∧
    ((s.stepAt = .writeSpeed ∧ s.frame = setspeedBytes s.cfg id (unitsOf s.cfg speed.toNat) ∧ s.wfail = false) ∨
      (s.stepAt = .writeMove ∧ s.frame = movetoBytes s.cfg id (pulseOf s.cfg angle.toNat) ∧
        (s.wfail = true → s.cfg.moveOnSpeedFail = true)))
  | .probe => (s.stepAt = .writeQuery ∧ s.frame = statusqueryBytes s.cfg) ∨ MatcherAt s.cfg.probePolls s
  | .matchResponse n _ => MatcherAt n s
  | .emergencyStop => s.stepAt = .writeOnly ∧ s.frame = stoprecoverBytes s.cfg .stop
  | .recover => s.stepAt = .writeOnly ∧ s.frame = stoprecoverBytes s.cfg .recover
  | .startActionGroup => s.stepAt = .writeOnly ∧ s.frame = actiongroupBytes s.cfg
  | .convAngle _ => False
  | .convSpeed _ => False
  | .split16 _ => False
  | .idByte _ => False
  | .encSetspeed _ _ => False
  | .encMoveto _ _ => False
  | .encActiongroup => False
  | .encStoprecover _ => False
  | .encStatusquery => False
  | .frameSetspeed _ _ => False
  | .frameMoveto _ _ => False
  | .frameStoprecover => False
  | .frameStatusquery => False
  | .frameActiongroup _ => False
  | .patternStatusAnswer => False

/-- A frame as the block may write it: the header first (20_memory.md R51), 4 to 6 bytes (30_encoding.md R75). -/
def FrameFits (c : Config) (f : List Byte) : Prop := f.head? = some c.header ∧ 4 ≤ f.length ∧ f.length ≤ 6

/-- The invariant of the block. -/
structure Inv (s : State) : Prop where
  /-- The configuration is well-formed (00_scope.md R8; 70_reset_and_hazards.md R234). -/
  config : configWf s.cfg = true
  /-- Past an operation's first line, STEP is at one of its lines (10_state.md R25). -/
  line : s.phase = .busy → s.stepAt ≠ .start → ∃ i, decodeRequest s.req = .ok i ∧ AtLine s i
  /-- FRAME holds up to 6 bytes (10_state.md R26). -/
  frameLength : s.frame.length ≤ 6
  /-- LOG holds at most 255 × CHUNK_MAX bytes (10_state.md R28). -/
  logLength : s.log.length ≤ 255 * s.cfg.chunkMax
  /-- In DONE a result waits, and it has a status (10_state.md R23, R31). -/
  result : s.phase = .done → ∃ st, s.res.status = some st
  /-- Every frame written starts with the header (20_memory.md R51). -/
  frames : ∀ f ok, Event.tx f ok ∈ s.trace → FrameFits s.cfg f

/-- The environment lets any one operation end: no reset is coming, and the transport answers (10_state.md R36: "whenever
every transaction on the port completes") two writes and 255 reads. -/
structure Answered (s : State) : Prop where
  noReset : s.rstIn = []
  writes : 2 ≤ s.txIn.length
  writesEnd : ∀ a ∈ s.txIn, a ≠ TxAnswer.never
  reads : 255 ≤ s.rxIn.length
  readsEnd : ∀ a ∈ s.rxIn, a ≠ RxAnswer.never

/-- `k` steps, stopping at the first fault or refusal. -/
def runSteps : Nat → State → Out
  | 0, s => .next s
  | k + 1, s =>
    match step s with
    | .next t => runSteps k t
    | .fault r => .fault r
    | .refused r => .refused r

/-- The registers a run starts from: a legal request accepted and not yet decoded, with no reset coming (10_state.md
R32; 70_reset_and_hazards.md R234). -/
structure Accepted (s : State) (i : Instr) : Prop where
  config : configWf s.cfg = true
  noReset : s.rstIn = []
  busy : s.phase = .busy
  first : s.stepAt = .start
  request : decodeRequest s.req = .ok i

/-- How many `TxWrite`s, `RxRead`s and `Delay`s a list of events holds. -/
def countTx : List Event → Nat
  | [] => 0
  | .tx _ _ :: es => countTx es + 1
  | .rx _ :: es => countTx es
  | .delay _ :: es => countTx es
  | .result _ :: es => countTx es

/-- See `countTx`. -/
def countRx : List Event → Nat
  | [] => 0
  | .tx _ _ :: es => countRx es
  | .rx _ :: es => countRx es + 1
  | .delay _ :: es => countRx es
  | .result _ :: es => countRx es

/-- See `countTx`. -/
def countDelay : List Event → Nat
  | [] => 0
  | .tx _ _ :: es => countDelay es
  | .rx _ :: es => countDelay es
  | .delay _ :: es => countDelay es + 1
  | .result _ :: es => countDelay es

/-- What an unmatched poll leaves in the trace (42_response_matcher.md R144): `Rx(c)`, then `Delay(d)`. -/
def pollEvents (d : Half) (chunks : List Chunk) : List Event := chunks.flatMap fun c => [.rx c, .delay d]

/-- The bytes of the `Bytes` chunks, in order (42_response_matcher.md R145). -/
def chunkBytes : List Chunk → List Byte
  | [] => []
  | .bytes xs :: cs => xs ++ chunkBytes cs
  | .empty :: cs => chunkBytes cs
  | .readError :: cs => chunkBytes cs

/-- A chunk that neither matches nor errs (42_response_matcher.md R144): the run goes on after it. -/
def goesOn (c : Config) : Chunk → Prop
  | .bytes xs => chunkMatches c.matchAlign xs c.statusAnswer = false
  | .empty => True
  | .readError => False

end Sys2Proof.Machine
end

