-- ==== Sys2Proof/Certificates/Slice0/Obligations.lean ====
section
/-! DEFINITION. The statements for the provers, each from the rules of spec/. -/

open Sys2Proof Sys2Proof.Machine

/-! ## The unit converter -/

/-- R105: CONV_ANGLE. -/
def Obligations.ConvAngleReturnsPulseWidth : Prop :=
  ∀ (angle : Half) (s : State),
    (∀ w : ReqWord, decodeRequest w = .ok (.convAngle angle) ↔ w = requestWord 0x1 0 angle) ∧
    (angle.toNat ≤ s.cfg.angleMax.toNat →
      exec (.convAngle angle) s =
        .next { s with phase := .done, res := Result.okValue (pulseOf s.cfg angle.toNat) }) ∧
    (s.cfg.angleMax.toNat < angle.toNat →
      exec (.convAngle angle) s = .next { s with phase := .done, res := Result.error .validationError 0x02 })

/-- R106: CONV_SPEED. -/
def Obligations.ConvSpeedReturnsSpeedUnits : Prop :=
  ∀ (speed : Half) (s : State),
    (∀ w : ReqWord, decodeRequest w = .ok (.convSpeed speed) ↔ w = requestWord 0x2 0 speed) ∧
    (s.cfg.speedMin.toNat ≤ speed.toNat → speed.toNat ≤ s.cfg.speedMax.toNat →
      exec (.convSpeed speed) s =
        .next { s with phase := .done, res := Result.okValue (unitsOf s.cfg speed.toNat) }) ∧
    (speed.toNat < s.cfg.speedMin.toNat ∨ s.cfg.speedMax.toNat < speed.toNat →
      exec (.convSpeed speed) s = .next { s with phase := .done, res := Result.error .validationError 0x03 })

/-- R107: SPLIT16. -/
def Obligations.Split16ReturnsTheTwoBytes : Prop :=
  ∀ (value : Half) (s : State),
    (∀ w : ReqWord, decodeRequest w = .ok (.split16 value) ↔ w = requestWord 0x3 0 value) ∧
    exec (.split16 value) s =
      .next { s with
        phase := .done
        res := Result.okHalves (BitVec.ofNat 8 (value.toNat / 256)) (BitVec.ofNat 8 (value.toNat % 256)) }

/-- R108: ID_BYTE. -/
def Obligations.IdByteReturnsTheId : Prop :=
  ∀ (id : Byte) (s : State),
    (∀ w : ReqWord, decodeRequest w = .ok (.idByte id) ↔ w = requestWord 0x4 id 0) ∧
    (id.toNat ≤ s.cfg.servoIdMax.toNat →
      exec (.idByte id) s = .next { s with phase := .done, res := Result.okValue (BitVec.ofNat 16 id.toNat) }) ∧
    (s.cfg.servoIdMax.toNat < id.toNat →
      exec (.idByte id) s = .next { s with phase := .done, res := Result.error .validationError 0x01 })

/-- R100: `pulse_of`, its formula in every configuration where it fits 16 bits, and its range and corner cases under the
values of 00_scope.md R7. Where the exact value does not fit 16 bits the model's value is free (log 10). -/
def Obligations.PulseOfIsTheIntegerFormula : Prop :=
  (∀ (c : Config) (angle : Nat), angle ≤ c.angleMax.toNat →
    c.pwBase.toNat + (200 * max angle c.angleClampMin.toNat + 9) / 18 < 65536 →
    (pulseOf c angle).toNat = c.pwBase.toNat + (200 * max angle c.angleClampMin.toNat + 9) / 18) ∧
  (∀ (p : AgPayload) (m angle : Nat), angle ≤ 180 →
    578 ≤ (pulseOf (Config.withOpen p m) angle).toNat ∧ (pulseOf (Config.withOpen p m) angle).toNat ≤ 2500 ∧
    (angle ≤ 6 → (pulseOf (Config.withOpen p m) angle).toNat = 578) ∧
    (angle = 90 → (pulseOf (Config.withOpen p m) angle).toNat = 1500) ∧
    (angle = 180 → (pulseOf (Config.withOpen p m) angle).toNat = 2500))

/-- R109 (f), the real-number half: the integer formula is DOC's rounded quotient. -/
def Obligations.PulseOfIsTheRoundedQuotient : Prop :=
  ∀ (p : AgPayload) (m angle : Nat), angle ≤ 180 →
    ((pulseOf (Config.withOpen p m) angle).toNat : ℤ) = round (((max angle 7 : Nat) : ℚ) / (9 / 100)) + 500

/-- R109 (b), (c), (e): strictly increasing from 7 to 180, constant below. -/
def Obligations.PulseOfIncreasesAboveTheClamp : Prop :=
  ∀ (p : AgPayload) (m : Nat),
    (∀ a b : Nat, 7 ≤ a → a < b → b ≤ 180 →
      (pulseOf (Config.withOpen p m) a).toNat < (pulseOf (Config.withOpen p m) b).toNat) ∧
    (∀ a : Nat, a ≤ 7 → pulseOf (Config.withOpen p m) a = pulseOf (Config.withOpen p m) 7)

/-- R101: `units_of`. -/
def Obligations.UnitsOfIsTheFloorOfTheQuotient : Prop :=
  (∀ (c : Config) (speed : Nat), c.speedMin.toNat ≤ speed → speed ≤ c.speedMax.toNat → 1 ≤ c.speedDiv.toNat →
    (unitsOf c speed).toNat = speed / c.speedDiv.toNat) ∧
  (∀ (p : AgPayload) (m speed : Nat), 9 ≤ speed → speed ≤ 180 →
    (unitsOf (Config.withOpen p m) speed).toNat = speed / 9 ∧
    1 ≤ (unitsOf (Config.withOpen p m) speed).toNat ∧ (unitsOf (Config.withOpen p m) speed).toNat ≤ 20)

/-- R102, R103: the split and its inverse, both ways. -/
def Obligations.CombineInvertsSplit : Prop :=
  (∀ v : Half, (splitHalf v).1.toNat = v.toNat / 256 ∧ (splitHalf v).2.toNat = v.toNat % 256 ∧
    combine (splitHalf v).1 (splitHalf v).2 = v) ∧
  (∀ hi lo : Byte, (combine hi lo).toNat = 256 * hi.toNat + lo.toNat ∧ splitHalf (combine hi lo) = (hi, lo))

/-! ## The frame encoder -/

/-- R120: ENC_SETSPEED. -/
def Obligations.EncSetspeedReturnsTheFrame : Prop :=
  ∀ (id : Byte) (units : Half) (s : State),
    (∀ w : ReqWord, decodeRequest w = .ok (.encSetspeed id units) ↔ w = requestWord 0x5 id units) ∧
    (s.cfg.servoIdMax.toNat < id.toNat →
      exec (.encSetspeed id units) s =
        .next { s with phase := .done, res := Result.error .validationError 0x01 }) ∧
    (id.toNat ≤ s.cfg.servoIdMax.toNat →
      units.toNat < s.cfg.unitsMin.toNat ∨ s.cfg.unitsMax.toNat < units.toNat →
      exec (.encSetspeed id units) s =
        .next { s with phase := .done, res := Result.error .validationError 0x05 }) ∧
    (id.toNat ≤ s.cfg.servoIdMax.toNat →
      s.cfg.unitsMin.toNat ≤ units.toNat → units.toNat ≤ s.cfg.unitsMax.toNat →
      exec (.encSetspeed id units) s =
        .next { s with
          phase := .done
          frame := [s.cfg.header, s.cfg.codeSetspeed, id, low units, high units]
          res := Result.okFrame [s.cfg.header, s.cfg.codeSetspeed, id, low units, high units] })

/-- R121: ENC_MOVETO. -/
def Obligations.EncMovetoReturnsTheFrame : Prop :=
  ∀ (id : Byte) (pw : Half) (s : State),
    (∀ w : ReqWord, decodeRequest w = .ok (.encMoveto id pw) ↔ w = requestWord 0x6 id pw) ∧
    (s.cfg.servoIdMax.toNat < id.toNat →
      exec (.encMoveto id pw) s =
        .next { s with phase := .done, res := Result.error .validationError 0x01 }) ∧
    (id.toNat ≤ s.cfg.servoIdMax.toNat →
      pw.toNat < s.cfg.pwMin.toNat ∨ s.cfg.pwMax.toNat < pw.toNat →
      exec (.encMoveto id pw) s =
        .next { s with phase := .done, res := Result.error .validationError 0x04 }) ∧
    (id.toNat ≤ s.cfg.servoIdMax.toNat →
      s.cfg.pwMin.toNat ≤ pw.toNat → pw.toNat ≤ s.cfg.pwMax.toNat →
      exec (.encMoveto id pw) s =
        .next { s with
          phase := .done
          frame := [s.cfg.header, s.cfg.codeMoveto, id, low pw, high pw]
          res := Result.okFrame [s.cfg.header, s.cfg.codeMoveto, id, low pw, high pw] })

/-- R122, R123, R124: ENC_ACTIONGROUP, ENC_STOPRECOVER in both modes, ENC_STATUSQUERY. -/
def Obligations.EncFixedFramesReturnTheirFrames : Prop :=
  (∀ s : State,
    (∀ w : ReqWord, decodeRequest w = .ok .encActiongroup ↔ w = 0x70000000) ∧
    exec .encActiongroup s =
      .next { s with
        phase := .done
        frame := [s.cfg.header, s.cfg.codeActiongroup] ++ s.cfg.agPayload.bytes
        res := Result.okFrame ([s.cfg.header, s.cfg.codeActiongroup] ++ s.cfg.agPayload.bytes) }) ∧
  (∀ (mode : StopMode) (s : State),
    (∀ w : ReqWord, decodeRequest w = .ok (.encStoprecover .stop) ↔ w = 0x80000000) ∧
    (∀ w : ReqWord, decodeRequest w = .ok (.encStoprecover .recover) ↔ w = 0x80000001) ∧
    exec (.encStoprecover mode) s =
      .next { s with
        phase := .done
        frame := [s.cfg.header, s.cfg.codeStoprecover] ++ s.cfg.stopPayload
        res := Result.okFrame ([s.cfg.header, s.cfg.codeStoprecover] ++ s.cfg.stopPayload) }) ∧
  (∀ s : State,
    (∀ w : ReqWord, decodeRequest w = .ok .encStatusquery ↔ w = 0x90000000) ∧
    exec .encStatusquery s =
      .next { s with phase := .done, frame := s.cfg.statusQuery, res := Result.okFrame s.cfg.statusQuery })

/-- R125: every frame function's frame starts with the header and has the length of its kind. -/
def Obligations.EveryFrameStartsWithTheHeader : Prop :=
  ∀ (c : Config) (id : Byte) (v : Half) (mode : StopMode), configWf c = true →
    ((setspeedBytes c id v).head? = some c.header ∧ (setspeedBytes c id v).length = 5) ∧
    ((movetoBytes c id v).head? = some c.header ∧ (movetoBytes c id v).length = 5) ∧
    ((stoprecoverBytes c mode).head? = some c.header ∧ (stoprecoverBytes c mode).length = 5) ∧
    ((statusqueryBytes c).head? = some c.header ∧ (statusqueryBytes c).length = 5) ∧
    ((actiongroupBytes c).head? = some c.header ∧ 4 ≤ (actiongroupBytes c).length ∧
      (actiongroupBytes c).length = 2 + c.agPayload.bytes.length ∧ (actiongroupBytes c).length ≤ 6)

/-- R53, R55: the 16-bit field of a SetSpeed or MoveTo frame is low byte, then high byte, and reads back. -/
def Obligations.FrameFieldsAreLowByteFirst : Prop :=
  ∀ (c : Config) (id : Byte) (v : Half),
    ((setspeedBytes c id v)[3]? = some (BitVec.ofNat 8 (v.toNat % 256)) ∧
      (setspeedBytes c id v)[4]? = some (BitVec.ofNat 8 (v.toNat / 256)) ∧
      readField16 (setspeedBytes c id v) 3 = some v.toNat) ∧
    ((movetoBytes c id v)[3]? = some (BitVec.ofNat 8 (v.toNat % 256)) ∧
      (movetoBytes c id v)[4]? = some (BitVec.ofNat 8 (v.toNat / 256)) ∧
      readField16 (movetoBytes c id v) 3 = some v.toNat)

/-! ## The response matcher -/

/-- R142: under BYTE, the pattern stands at some byte index of the chunk. -/
def Obligations.ByteMatchIsAnAlignedSubstring : Prop :=
  ∀ xs p : List Byte,
    (chunkMatches .byte xs p = true ↔
      ∃ i : Nat, i + p.length ≤ xs.length ∧ ∀ j : Nat, j < p.length → xs[i + j]? = p[j]?) ∧
    (xs.length < p.length → chunkMatches .byte xs p = false)

/-- R143: under NIBBLE, the pattern's hex text stands at some offset of the chunk's; every byte-aligned match is one;
the rule's own example matches under NIBBLE only. -/
def Obligations.NibbleMatchIsAHexTextSubstring : Prop :=
  (∀ xs p : List Byte,
    (chunkMatches .nibble xs p = true ↔
      ∃ k : Nat, k + 2 * p.length ≤ 2 * xs.length ∧ ((hexText xs).drop k).take (2 * p.length) = hexText p) ∧
    (chunkMatches .byte xs p = true → chunkMatches .nibble xs p = true)) ∧
  chunkMatches .nibble [0x0F, 0x01, 0x20, 0x00, 0x00] [0xF0, 0x12, 0x00, 0x00] = true ∧
  chunkMatches .byte [0x0F, 0x01, 0x20, 0x00, 0x00] [0xF0, 0x12, 0x00, 0x00] = false

/-- R140, R147 at a run's start: POLLS and LOG are cleared; a budget of 0 returns UNMATCHED with no event. -/
def Obligations.MatchResponseStartsTheRun : Prop :=
  ∀ (n : Byte) (d : Half) (s : State), s.stepAt = .start →
    (n ≠ 0 → exec (.matchResponse n d) s = .next { s with polls := 0, log := [], stepAt := .poll }) ∧
    (n = 0 → exec (.matchResponse n d) s =
      .next { s with polls := 0, log := [], phase := .done, res := Result.ofMatch .unmatched [] 0 })

/-- R140, R141 at a poll, by the chunk read: appended first, tested alone; a match or a read error ends the run. -/
def Obligations.MatchResponsePollsOneChunk : Prop :=
  ∀ (n : Byte) (d : Half) (s : State) (a : RxAnswer) (rest : List RxAnswer) (c : Chunk),
    s.stepAt = .poll → s.rxIn = a :: rest → chunkOf s.cfg.chunkMax a = some c →
    (∀ xs, c = .bytes xs → chunkMatches s.cfg.matchAlign xs s.cfg.statusAnswer = true →
      exec (.matchResponse n d) s =
        .next { s with
          rxIn := rest, trace := s.trace ++ [.rx c], polls := s.polls + 1, log := s.log ++ xs, phase := .done
          res := Result.ofMatch .matched (s.log ++ xs) (s.polls + 1) }) ∧
    (∀ xs, c = .bytes xs → chunkMatches s.cfg.matchAlign xs s.cfg.statusAnswer = false →
      exec (.matchResponse n d) s =
        .next { s with
          rxIn := rest, trace := s.trace ++ [.rx c], polls := s.polls + 1, log := s.log ++ xs, stepAt := .wait }) ∧
    (c = .empty →
      exec (.matchResponse n d) s =
        .next { s with rxIn := rest, trace := s.trace ++ [.rx c], polls := s.polls + 1, stepAt := .wait }) ∧
    (c = .readError →
      exec (.matchResponse n d) s =
        .next { s with
          rxIn := rest, trace := s.trace ++ [.rx c], polls := s.polls + 1, phase := .done
          res := Result.ofMatch .transportFailure s.log (s.polls + 1) })

/-- R140 at the delay: the event, then the loop's head. -/
def Obligations.MatchResponseWaitsThenLoops : Prop :=
  ∀ (n : Byte) (d : Half) (s : State), s.stepAt = .wait →
    (s.polls ≠ n →
      exec (.matchResponse n d) s = .next { s with trace := s.trace ++ [.delay d], stepAt := .poll }) ∧
    (s.polls = n →
      exec (.matchResponse n d) s =
        .next { s with
          trace := s.trace ++ [.delay d], phase := .done, res := Result.ofMatch .unmatched s.log n })

/-- R144, R145 for MATCH_RESPONSE: the whole run, its trace and its result, for each outcome. -/
def Obligations.MatchResponseRunHasItsTrace : Prop :=
  (∀ (n : Byte) (d : Half) (w : ReqWord), decodeRequest w = .ok (.matchResponse n d) ↔ w = requestWord 0xA n d) ∧
  ∀ (n : Byte) (d : Half) (s : State) (answers rest : List RxAnswer) (pre : List Chunk),
    Accepted s (.matchResponse n d) → s.rxIn = answers ++ rest → (∀ c ∈ pre, goesOn s.cfg c) →
    (∀ xs, pre.length < n.toNat → chunkMatches s.cfg.matchAlign xs s.cfg.statusAnswer = true →
      answers.map (chunkOf s.cfg.chunkMax) = (pre ++ [Chunk.bytes xs]).map some →
      ∃ t, runSteps (2 * pre.length + 2) s = .next t ∧ t.phase = .done ∧
        t.trace = s.trace ++ pollEvents d pre ++ [.rx (.bytes xs)] ∧
        t.res = Result.ofMatch .matched (chunkBytes pre ++ xs) (BitVec.ofNat 8 (pre.length + 1)) ∧
        t.rxIn = rest ∧ t.txIn = s.txIn ∧ t.line = s.line) ∧
    (pre.length < n.toNat →
      answers.map (chunkOf s.cfg.chunkMax) = (pre ++ [Chunk.readError]).map some →
      ∃ t, runSteps (2 * pre.length + 2) s = .next t ∧ t.phase = .done ∧
        t.trace = s.trace ++ pollEvents d pre ++ [.rx .readError] ∧
        t.res = Result.ofMatch .transportFailure (chunkBytes pre) (BitVec.ofNat 8 (pre.length + 1)) ∧
        t.rxIn = rest ∧ t.txIn = s.txIn ∧ t.line = s.line) ∧
    (pre.length = n.toNat →
      answers.map (chunkOf s.cfg.chunkMax) = pre.map some →
      ∃ t, runSteps (2 * pre.length + 1) s = .next t ∧ t.phase = .done ∧
        t.trace = s.trace ++ pollEvents d pre ∧
        t.res = Result.ofMatch .unmatched (chunkBytes pre) n ∧
        t.rxIn = rest ∧ t.txIn = s.txIn ∧ t.line = s.line)

/-- R81, R140: the status answer's row is the running matcher's poll; with a read that matches it completes the run. -/
def Obligations.PatternRowIsTheMatchersPoll : Prop :=
  ∀ (s : State) (i : Instr), s.phase = .busy → s.stepAt = .poll → s.cfg.statusAnswer = [0xF0, 0x12, 0x00, 0x00] →
    decodeRequest s.req = .ok i →
    (i = .probe ∨ (∃ n d, i = .matchResponse n d) →
      exec .patternStatusAnswer s = exec i s) ∧
    (∀ n d a rest xs, i = .matchResponse n d → s.rxIn = a :: rest → chunkOf s.cfg.chunkMax a = some (.bytes xs) →
      chunkMatches s.cfg.matchAlign xs [0xF0, 0x12, 0x00, 0x00] = true →
      exec .patternStatusAnswer s =
        .next { s with
          rxIn := rest, trace := s.trace ++ [.rx (.bytes xs)], polls := s.polls + 1, log := s.log ++ xs
          phase := .done, res := Result.ofMatch .matched (s.log ++ xs) (s.polls + 1) })

/-! ## The session operations -/

/-- R160 up to the matcher: the StatusQuery write, and OFFLINE without a read where it fails. -/
def Obligations.ProbeSendsTheQuery : Prop :=
  ∀ s : State,
    (s.stepAt = .start →
      exec .probe s = .next { s with frame := s.cfg.statusQuery, stepAt := .writeQuery }) ∧
    (∀ rest, s.stepAt = .writeQuery → s.txIn = .accepted :: rest → s.cfg.probePolls ≠ 0 →
      exec .probe s =
        .next { s with
          txIn := rest, line := s.line ++ s.frame, trace := s.trace ++ [.tx s.frame true]
          polls := 0, log := [], stepAt := .poll }) ∧
    (∀ sent rest, s.stepAt = .writeQuery → s.txIn = .failed sent :: rest →
      exec .probe s =
        .next { s with
          txIn := rest, line := s.line ++ s.frame.take sent, trace := s.trace ++ [.tx s.frame false]
          phase := .done
          res := { Result.ok with live := some .offline, polls := some 0, log := some [] } })

/-- R160: the whole probe, its trace and its result, for every shape of the transport's answers. -/
def Obligations.ProbeRunHasItsTrace : Prop :=
  (∀ w : ReqWord, decodeRequest w = .ok .probe ↔ w = 0xB0000000) ∧
  ∀ (s : State), Accepted s .probe →
    (∀ sent txRest, s.txIn = .failed sent :: txRest →
      ∃ t, runSteps 2 s = .next t ∧ t.phase = .done ∧
        t.trace = s.trace ++ [.tx s.cfg.statusQuery false] ∧
        t.res = { Result.ok with live := some .offline, polls := some 0, log := some [] } ∧
        t.rxIn = s.rxIn ∧ t.txIn = txRest) ∧
    (∀ txRest answers rest pre, s.txIn = .accepted :: txRest → s.rxIn = answers ++ rest →
      (∀ c ∈ pre, goesOn s.cfg c) →
      (∀ xs, pre.length < s.cfg.probePolls.toNat → chunkMatches s.cfg.matchAlign xs s.cfg.statusAnswer = true →
        answers.map (chunkOf s.cfg.chunkMax) = (pre ++ [Chunk.bytes xs]).map some →
        ∃ t, runSteps (2 * pre.length + 3) s = .next t ∧ t.phase = .done ∧
          t.trace = s.trace ++ [.tx s.cfg.statusQuery true] ++ pollEvents s.cfg.probeIntervalMs pre ++
            [.rx (.bytes xs)] ∧
          t.res = { Result.ok with
            live := some .online, outcome := some .matched, log := some (chunkBytes pre ++ xs)
            polls := some (BitVec.ofNat 8 (pre.length + 1)) } ∧
          t.rxIn = rest ∧ t.txIn = txRest) ∧
      (pre.length < s.cfg.probePolls.toNat →
        answers.map (chunkOf s.cfg.chunkMax) = (pre ++ [Chunk.readError]).map some →
        ∃ t, runSteps (2 * pre.length + 3) s = .next t ∧ t.phase = .done ∧
          t.trace = s.trace ++ [.tx s.cfg.statusQuery true] ++ pollEvents s.cfg.probeIntervalMs pre ++
            [.rx .readError] ∧
          t.res = { Result.ok with
            live := some .offline, outcome := some .transportFailure, log := some (chunkBytes pre)
            polls := some (BitVec.ofNat 8 (pre.length + 1)) } ∧
          t.rxIn = rest ∧ t.txIn = txRest) ∧
      (pre.length = s.cfg.probePolls.toNat →
        answers.map (chunkOf s.cfg.chunkMax) = pre.map some →
        ∃ t, runSteps (2 * pre.length + 2) s = .next t ∧ t.phase = .done ∧
          t.trace = s.trace ++ [.tx s.cfg.statusQuery true] ++ pollEvents s.cfg.probeIntervalMs pre ∧
          t.res = { Result.ok with
            live := some .offline, outcome := some .unmatched, log := some (chunkBytes pre)
            polls := some s.cfg.probePolls } ∧
          t.rxIn = rest ∧ t.txIn = txRest))

/-- R161 step 1, R201, R203: the first failing operand in the order id, angle, speed decides, with no port event. -/
def Obligations.MoveServoValidatesInOrder : Prop :=
  ∀ (id angle speed : Byte) (s : State), s.stepAt = .start →
    (s.cfg.servoIdMax.toNat < id.toNat →
      exec (.moveServo id angle speed) s =
        .next { s with phase := .done, res := Result.error .validationError 0x01 }) ∧
    (id.toNat ≤ s.cfg.servoIdMax.toNat → s.cfg.angleMax.toNat < angle.toNat →
      exec (.moveServo id angle speed) s =
        .next { s with phase := .done, res := Result.error .validationError 0x02 }) ∧
    (id.toNat ≤ s.cfg.servoIdMax.toNat → angle.toNat ≤ s.cfg.angleMax.toNat →
      speed.toNat < s.cfg.speedMin.toNat ∨ s.cfg.speedMax.toNat < speed.toNat →
      exec (.moveServo id angle speed) s =
        .next { s with phase := .done, res := Result.error .validationError 0x03 })

/-- R161 steps 2 to 4, line by line: legal operands make the SetSpeed frame; each write has its outcome. -/
def Obligations.MoveServoRunsLineByLine : Prop :=
  ∀ (id angle speed : Byte) (s : State),
    (s.stepAt = .start → id.toNat ≤ s.cfg.servoIdMax.toNat → angle.toNat ≤ s.cfg.angleMax.toNat →
      s.cfg.speedMin.toNat ≤ speed.toNat → speed.toNat ≤ s.cfg.speedMax.toNat →
      exec (.moveServo id angle speed) s =
        .next { s with
          wfail := false, frame := setspeedBytes s.cfg id (unitsOf s.cfg speed.toNat), stepAt := .writeSpeed }) ∧
    (∀ rest, s.stepAt = .writeSpeed → s.txIn = .accepted :: rest →
      exec (.moveServo id angle speed) s =
        .next { s with
          txIn := rest, line := s.line ++ s.frame, trace := s.trace ++ [.tx s.frame true]
          frame := movetoBytes s.cfg id (pulseOf s.cfg angle.toNat), stepAt := .writeMove }) ∧
    (∀ sent rest, s.stepAt = .writeSpeed → s.txIn = .failed sent :: rest → s.cfg.moveOnSpeedFail = false →
      exec (.moveServo id angle speed) s =
        .next { s with
          txIn := rest, line := s.line ++ s.frame.take sent, trace := s.trace ++ [.tx s.frame false]
          phase := .done, res := Result.error .transportWriteFailure 0x01 }) ∧
    (∀ sent rest, s.stepAt = .writeSpeed → s.txIn = .failed sent :: rest → s.cfg.moveOnSpeedFail = true →
      exec (.moveServo id angle speed) s =
        .next { s with
          txIn := rest, line := s.line ++ s.frame.take sent, trace := s.trace ++ [.tx s.frame false], wfail := true
          frame := movetoBytes s.cfg id (pulseOf s.cfg angle.toNat), stepAt := .writeMove }) ∧
    (∀ rest, s.stepAt = .writeMove → s.txIn = .accepted :: rest →
      exec (.moveServo id angle speed) s =
        .next { s with
          txIn := rest, line := s.line ++ s.frame, trace := s.trace ++ [.tx s.frame true], phase := .done
          res := if s.wfail then Result.error .transportWriteFailure 0x01
            else Result.okValue (pulseOf s.cfg angle.toNat) }) ∧
    (∀ sent rest, s.stepAt = .writeMove → s.txIn = .failed sent :: rest →
      exec (.moveServo id angle speed) s =
        .next { s with
          txIn := rest, line := s.line ++ s.frame.take sent, trace := s.trace ++ [.tx s.frame false], phase := .done
          res := Result.error .transportWriteFailure (if s.wfail then 0x03 else 0x02) })

/-- R161, R166, R63: the whole MOVE_SERVO. The first operand out of range, in the order id, angle, speed, ends it with no
port event; else SetSpeed's write comes before MoveTo's, and both must succeed. -/
def Obligations.MoveServoRunHasItsTrace : Prop :=
  (∀ (id angle speed : Byte) (w : ReqWord),
    decodeRequest w = .ok (.moveServo id angle speed) ↔ w = requestWord 0xC id (combine angle speed)) ∧
  (∀ (id angle speed info : Byte) (s : State), Accepted s (.moveServo id angle speed) →
    (s.cfg.servoIdMax.toNat < id.toNat ∧ info = 0x01) ∨
      (id.toNat ≤ s.cfg.servoIdMax.toNat ∧ s.cfg.angleMax.toNat < angle.toNat ∧ info = 0x02) ∨
      (id.toNat ≤ s.cfg.servoIdMax.toNat ∧ angle.toNat ≤ s.cfg.angleMax.toNat ∧
        (speed.toNat < s.cfg.speedMin.toNat ∨ s.cfg.speedMax.toNat < speed.toNat) ∧ info = 0x03) →
    ∃ t, runSteps 1 s = .next t ∧ t.phase = .done ∧ t.trace = s.trace ∧ t.line = s.line ∧
      t.res = Result.error .validationError info ∧ t.txIn = s.txIn ∧ t.rxIn = s.rxIn) ∧
  ∀ (id angle speed : Byte) (s : State) (ss mt : List Byte) (rest : List TxAnswer),
    Accepted s (.moveServo id angle speed) →
    id.toNat ≤ s.cfg.servoIdMax.toNat → angle.toNat ≤ s.cfg.angleMax.toNat →
    s.cfg.speedMin.toNat ≤ speed.toNat → speed.toNat ≤ s.cfg.speedMax.toNat →
    ss = setspeedBytes s.cfg id (unitsOf s.cfg speed.toNat) →
    mt = movetoBytes s.cfg id (pulseOf s.cfg angle.toNat) →
    (s.txIn = .accepted :: .accepted :: rest →
      ∃ t, runSteps 3 s = .next t ∧ t.phase = .done ∧ t.trace = s.trace ++ [.tx ss true, .tx mt true] ∧
        t.line = s.line ++ ss ++ mt ∧ t.res = Result.okValue (pulseOf s.cfg angle.toNat) ∧
        t.txIn = rest ∧ t.rxIn = s.rxIn) ∧
    (∀ k, s.txIn = .accepted :: .failed k :: rest →
      ∃ t, runSteps 3 s = .next t ∧ t.phase = .done ∧ t.trace = s.trace ++ [.tx ss true, .tx mt false] ∧
        t.line = s.line ++ ss ++ mt.take k ∧ t.res = Result.error .transportWriteFailure 0x02 ∧
        t.txIn = rest ∧ t.rxIn = s.rxIn) ∧
    (∀ k, s.cfg.moveOnSpeedFail = false → s.txIn = .failed k :: rest →
      ∃ t, runSteps 2 s = .next t ∧ t.phase = .done ∧ t.trace = s.trace ++ [.tx ss false] ∧
        t.line = s.line ++ ss.take k ∧ t.res = Result.error .transportWriteFailure 0x01 ∧
        t.txIn = rest ∧ t.rxIn = s.rxIn) ∧
    (∀ k, s.cfg.moveOnSpeedFail = true → s.txIn = .failed k :: .accepted :: rest →
      ∃ t, runSteps 3 s = .next t ∧ t.phase = .done ∧ t.trace = s.trace ++ [.tx ss false, .tx mt true] ∧
        t.line = s.line ++ ss.take k ++ mt ∧ t.res = Result.error .transportWriteFailure 0x01 ∧
        t.txIn = rest ∧ t.rxIn = s.rxIn) ∧
    (∀ k j, s.cfg.moveOnSpeedFail = true → s.txIn = .failed k :: .failed j :: rest →
      ∃ t, runSteps 3 s = .next t ∧ t.phase = .done ∧ t.trace = s.trace ++ [.tx ss false, .tx mt false] ∧
        t.line = s.line ++ ss.take k ++ mt.take j ∧ t.res = Result.error .transportWriteFailure 0x03 ∧
        t.txIn = rest ∧ t.rxIn = s.rxIn)

/-- R162, R163, R164, R165, line by line: the frame of each, then one write and no read. -/
def Obligations.FireAndForgetRunsLineByLine : Prop :=
  ∀ (i : Instr) (f : List Byte) (s : State),
    (i = .emergencyStop ∧ f = [s.cfg.header, s.cfg.codeStoprecover] ++ s.cfg.stopPayload) ∨
      (i = .recover ∧ f = [s.cfg.header, s.cfg.codeStoprecover] ++ s.cfg.stopPayload) ∨
      (i = .startActionGroup ∧ f = [s.cfg.header, s.cfg.codeActiongroup] ++ s.cfg.agPayload.bytes) →
    (s.stepAt = .start → exec i s = .next { s with frame := f, stepAt := .writeOnly }) ∧
    (∀ rest, s.stepAt = .writeOnly → s.txIn = .accepted :: rest →
      exec i s =
        .next { s with
          txIn := rest, line := s.line ++ s.frame, trace := s.trace ++ [.tx s.frame true], phase := .done
          res := Result.ok }) ∧
    (∀ sent rest, s.stepAt = .writeOnly → s.txIn = .failed sent :: rest →
      exec i s =
        .next { s with
          txIn := rest, line := s.line ++ s.frame.take sent, trace := s.trace ++ [.tx s.frame false], phase := .done
          res := Result.error .transportWriteFailure 0x01 })

/-- R162, R163, R164, R166: the whole of each fire-and-forget operation. -/
def Obligations.FireAndForgetRunHasItsTrace : Prop :=
  (∀ w : ReqWord, (decodeRequest w = .ok .emergencyStop ↔ w = 0xD0000000) ∧
    (decodeRequest w = .ok .recover ↔ w = 0xE0000000) ∧
    (decodeRequest w = .ok .startActionGroup ↔ w = 0xF0000000)) ∧
  ∀ (i : Instr) (f : List Byte) (s : State) (rest : List TxAnswer),
    (i = .emergencyStop ∧ f = [s.cfg.header, s.cfg.codeStoprecover] ++ s.cfg.stopPayload) ∨
      (i = .recover ∧ f = [s.cfg.header, s.cfg.codeStoprecover] ++ s.cfg.stopPayload) ∨
      (i = .startActionGroup ∧ f = [s.cfg.header, s.cfg.codeActiongroup] ++ s.cfg.agPayload.bytes) →
    Accepted s i →
    (s.txIn = .accepted :: rest →
      ∃ t, runSteps 2 s = .next t ∧ t.phase = .done ∧ t.trace = s.trace ++ [.tx f true] ∧
        t.line = s.line ++ f ∧ t.res = Result.ok ∧ t.txIn = rest ∧ t.rxIn = s.rxIn) ∧
    (∀ k, s.txIn = .failed k :: rest →
      ∃ t, runSteps 2 s = .next t ∧ t.phase = .done ∧ t.trace = s.trace ++ [.tx f false] ∧
        t.line = s.line ++ f.take k ∧ t.res = Result.error .transportWriteFailure 0x01 ∧ t.txIn = rest ∧
        t.rxIn = s.rxIn)

/-- R163: EMERGENCY_STOP and RECOVER do the same in every state. -/
def Obligations.StopAndRecoverAreTheSame : Prop :=
  ∀ s : State, exec .emergencyStop s = exec .recover s

/-! ## The wire frames -/

/-- R10, R126: a frame's row is the write of the running operation whose frame it is. The due frame as the meaning of
the row is the model's choice (log 12). -/
def Obligations.FrameRowIsItsOperationsWrite : Prop :=
  ∀ (s : State) (i f : Instr), s.phase = .busy → s.stepAt.writes = true → decodeRequest s.req = .ok i →
    AtLine s i → encodeFrame s.cfg f = some s.frame → exec f s = exec i s

/-- R161 to R164, R160: each frame's row completes where its operation is about to write it. The due frame as the
meaning of the row is the model's choice (log 12). -/
def Obligations.FrameRowsComplete : Prop :=
  ∀ (s : State) (rest : List TxAnswer), s.phase = .busy → s.txIn = .accepted :: rest →
    (∀ id units angle speed, s.stepAt = .writeSpeed → decodeRequest s.req = .ok (.moveServo id angle speed) →
      s.frame = [s.cfg.header, s.cfg.codeSetspeed, id, low units, high units] →
      exec (.frameSetspeed id units) s =
        .next { s with
          txIn := rest, line := s.line ++ s.frame, trace := s.trace ++ [.tx s.frame true]
          frame := movetoBytes s.cfg id (pulseOf s.cfg angle.toNat), stepAt := .writeMove }) ∧
    (∀ id pw angle speed, s.stepAt = .writeMove → decodeRequest s.req = .ok (.moveServo id angle speed) →
      s.wfail = false → pw = pulseOf s.cfg angle.toNat →
      s.frame = [s.cfg.header, s.cfg.codeMoveto, id, low pw, high pw] →
      exec (.frameMoveto id pw) s =
        .next { s with
          txIn := rest, line := s.line ++ s.frame, trace := s.trace ++ [.tx s.frame true], phase := .done
          res := Result.okValue pw }) ∧
    (s.stepAt = .writeOnly → decodeRequest s.req = .ok .emergencyStop ∨ decodeRequest s.req = .ok .recover →
      s.frame = [s.cfg.header, s.cfg.codeStoprecover] ++ s.cfg.stopPayload →
      exec .frameStoprecover s =
        .next { s with
          txIn := rest, line := s.line ++ s.frame, trace := s.trace ++ [.tx s.frame true], phase := .done
          res := Result.ok }) ∧
    (s.stepAt = .writeQuery → decodeRequest s.req = .ok .probe → s.cfg.probePolls ≠ 0 → s.frame = s.cfg.statusQuery →
      exec .frameStatusquery s =
        .next { s with
          txIn := rest, line := s.line ++ s.frame, trace := s.trace ++ [.tx s.frame true]
          polls := 0, log := [], stepAt := .poll }) ∧
    (∀ payload, s.stepAt = .writeOnly → decodeRequest s.req = .ok .startActionGroup →
      s.frame = [s.cfg.header, s.cfg.codeActiongroup] ++ payload →
      exec (.frameActiongroup payload) s =
        .next { s with
          txIn := rest, line := s.line ++ s.frame, trace := s.trace ++ [.tx s.frame true], phase := .done
          res := Result.ok })

/-- R126: the block has no raw-send operation, so a frame that is not the one about to be written is refused. -/
def Obligations.NoRawSend : Prop :=
  ∀ (s : State) (f : Instr) (bytes : List Byte), encodeFrame s.cfg f = some bytes →
    s.phase ≠ .busy ∨ s.stepAt.writes = false ∨ s.frame ≠ bytes → exec f s = .refused .noRawSend

/-- R59: after a write, the whole frame on the line where it succeeded; where it failed, any prefix may be there. -/
def Obligations.FailedWriteMaySendAnyPrefix : Prop :=
  ∀ (s : State) (rest : List TxAnswer) (resume : Bool → State → State),
    (s.txIn = .accepted :: rest →
      txWrite s resume =
        resume true { s with txIn := rest, line := s.line ++ s.frame, trace := s.trace ++ [.tx s.frame true] }) ∧
    (∀ sentBytes, sentBytes <+: s.frame → s.txIn = .failed sentBytes.length :: rest →
      txWrite s resume =
        resume false { s with txIn := rest, line := s.line ++ sentBytes, trace := s.trace ++ [.tx s.frame false] })

/-! ## Decoding -/

/-- R70, R72, R83: the checks of decode in their order, on the word's bits. -/
def Obligations.DecodeChecksInOrder : Prop :=
  ∀ w : ReqWord,
    (w.toNat / 2 ^ 28 = 0 → decodeRequest w = .illegal 0x01) ∧
    (w.toNat / 2 ^ 28 ≠ 0 → w.toNat / 2 ^ 24 % 16 ≠ 0 → decodeRequest w = .illegal 0x02) ∧
    (w.toNat / 2 ^ 28 ≠ 0 → w.toNat / 2 ^ 24 % 16 = 0 → w &&& mustBeZero (w.toNat / 2 ^ 28) ≠ 0 →
      decodeRequest w = .illegal 0x03) ∧
    (w.toNat / 2 ^ 28 ≠ 0 → w.toNat / 2 ^ 24 % 16 = 0 → w &&& mustBeZero (w.toNat / 2 ^ 28) = 0 →
      ∃ i, decodeRequest w = .ok i ∧
        operation (w.toNat / 2 ^ 28) (BitVec.ofNat 8 (w.toNat / 2 ^ 16 % 256)) (BitVec.ofNat 16 (w.toNat % 65536)) =
          some i)

/-- R83: each illegal encoding raises ILLEGAL_REQUEST, its info in the order of the checks, and no port event happens. -/
def Obligations.IllegalRequestRaises : Prop :=
  ∀ s : State, configWf s.cfg = true → s.rstNow = .low → s.phase = .busy →
    (s.req.toNat / 2 ^ 28 = 0 →
      step s = .next { s.tick with phase := .done, res := Result.error .illegalRequest 0x01 }) ∧
    (s.req.toNat / 2 ^ 28 ≠ 0 → s.req.toNat / 2 ^ 24 % 16 ≠ 0 →
      step s = .next { s.tick with phase := .done, res := Result.error .illegalRequest 0x02 }) ∧
    (s.req.toNat / 2 ^ 28 ≠ 0 → s.req.toNat / 2 ^ 24 % 16 = 0 → s.req &&& mustBeZero (s.req.toNat / 2 ^ 28) ≠ 0 →
      step s = .next { s.tick with phase := .done, res := Result.error .illegalRequest 0x03 })

/-- Decode and encode agree: every well-formed instruction comes back, with every operand. A StartActionGroup frame with
any payload of 2 to 4 bytes is one by the model's choice (log 21). -/
def Obligations.DecodeOfEncode : Prop :=
  ∀ i : Instr, i.wf = true → decode (encode i) = some i

/-- A word that decodes to a request is that request's word: no two words name the same operation and operands. -/
def Obligations.EncodeOfDecodedRequest : Prop :=
  ∀ (w : ReqWord) (i : Instr), decodeRequest w = .ok i → encodeRequest i = some w ∧ i.wf = true

/-- Bytes that decode to a frame are that frame's bytes, under any configuration. Which payloads a StartActionGroup frame
is read with is the model's choice (log 21). -/
def Obligations.EncodeOfDecodedFrame : Prop :=
  ∀ (c : Config) (bytes : List Byte) (i : Instr), decodeFrame c bytes = some i →
    encodeFrame c i = some bytes ∧ i.wf = true

/-- R87, 95_test_vectors.md: words written out by the spec decode to what it says. -/
def Obligations.SpecWordsDecode : Prop :=
  decodeRequest 0xC005005A = .ok (.moveServo 5 0 90) ∧
  decodeRequest 0xB0000000 = .ok .probe ∧
  decodeRequest 0xA003000A = .ok (.matchResponse 3 10) ∧
  decodeRequest 0x1000005A = .ok (.convAngle 90) ∧
  decodeRequest 0x5005000A = .ok (.encSetspeed 5 10) ∧
  decodeRequest 0xC1105A5A = .illegal 0x02 ∧
  decodeRequest 0x80000002 = .illegal 0x03 ∧
  decodeRequest 0x0F00FFFF = .illegal 0x01 ∧
  decode (.frame [0xFF, 0x02, 0x05, 0x42, 0x02]) = some (.frameMoveto 5 578) ∧
  decode (.pattern [0xF0, 0x12, 0x00, 0x00]) = some .patternStatusAnswer

/-! ## The machine -/

/-- R72, R25: in BUSY a step runs the request in REQ from STEP, where no wire row is due. -/
def Obligations.StepRunsTheDecodedRequest : Prop :=
  ∀ (s : State) (i : Instr), configWf s.cfg = true → s.rstNow = .low → s.phase = .busy →
    decodeRequest s.req = .ok i → (s.stepAt = .start ∨ s.stepAt = .wait) → step s = exec i s.tick

/-- R25, R30, log 12: past its first line too, a step of a running operation is its meaning at STEP; at a write it is also
the meaning of the frame's row, at a poll for the status answer that of the pattern's row. -/
def Obligations.StepRunsTheRunningOperation : Prop :=
  ∀ (s : State) (i : Instr), Inv s → s.rstNow = .low → s.phase = .busy → decodeRequest s.req = .ok i →
    step s = exec i s.tick ∧
    (∀ f, s.stepAt.writes = true → decodeFrame s.cfg s.frame = some f → step s = exec f s.tick) ∧
    (s.stepAt = .poll → s.cfg.statusAnswer = [0xF0, 0x12, 0x00, 0x00] →
      step s = exec .patternStatusAnswer s.tick)

/-- R32: a request is accepted only in IDLE, the first waiting one; otherwise the waiting requests are held. That no other
register is written is the model's choice for IDLE (log 17); the list of waiting words is its form of the port (log 8). -/
def Obligations.RequestsAreAcceptedOnlyInIdle : Prop :=
  ∀ s : State, configWf s.cfg = true →
    (s.reqReady = true ↔ s.phase = .idle) ∧
    (∀ w ws, s.rstNow = .low → s.phase = .idle → s.reqIn = w :: ws →
      step s = .next { s.tick with req := w, phase := .busy, stepAt := .start, reqIn := ws }) ∧
    (s.rstNow = .low → s.phase = .idle → s.reqIn = [] → step s = .next s.tick) ∧
    (∀ t, s.phase ≠ .idle → step s = .next t → t.reqIn = s.reqIn)

/-- R33: in DONE the result is delivered and recorded when the caller is ready, and else stays. That every other register
keeps its value into IDLE, where R24 and R41 give REQ, STEP and RES none, is the model's choice (log 17); the list of
samples is its form of `res_ready` (log 7). -/
def Obligations.ResultsAreDeliveredInDone : Prop :=
  ∀ (s : State) (rest : List ReadySample), configWf s.cfg = true → s.rstNow = .low → s.phase = .done →
    s.resValid = true ∧
    (s.resReadyIn = .high :: rest →
      step s = .next { s.tick with resReadyIn := rest, trace := s.trace ++ [.result s.res], phase := .idle }) ∧
    (s.resReadyIn = .low :: rest → step s = .next { s.tick with resReadyIn := rest })

/-- R6: a step records at most one event, and nothing recorded is lost. -/
def Obligations.OneEventAStep : Prop :=
  ∀ s t : State, step s = .next t → ∃ es : List Event, es.length ≤ 1 ∧ t.trace = s.trace ++ es

/-- R20: no step writes the configuration, a reset neither. -/
def Obligations.ConfigurationNeverChanges : Prop :=
  ∀ s t : State, step s = .next t → t.cfg = s.cfg

/-- R126, R52, R165: a `TxWrite` happens only for a session operation and writes FRAME; an `RxRead` happens only for
MATCH_RESPONSE and PROBE. -/
def Obligations.OnlySessionOperationsTransmit : Prop :=
  ∀ s t : State, step s = .next t →
    (∀ f ok, t.trace = s.trace ++ [.tx f ok] →
      s.phase = .busy ∧ f = s.frame ∧
      (decodeRequest s.req = .ok .probe ∨ (∃ id angle speed, decodeRequest s.req = .ok (.moveServo id angle speed)) ∨
        decodeRequest s.req = .ok .emergencyStop ∨ decodeRequest s.req = .ok .recover ∨
        decodeRequest s.req = .ok .startActionGroup)) ∧
    (∀ c, t.trace = s.trace ++ [.rx c] →
      s.phase = .busy ∧
      (decodeRequest s.req = .ok .probe ∨ ∃ n d, decodeRequest s.req = .ok (.matchResponse n d)))

/-- R8, R21, R207: which configurations are well-formed, and that every other is refused. The ordering conditions on PW,
SPEED and UNITS are R21's; that the refusal comes at every step, under `rst` too, is the model's choice (log 9). -/
def Obligations.IllFormedConfigurationIsRefused : Prop :=
  (∀ c : Config, configWf c = true ↔
    c.statusAnswer ≠ [] ∧ c.statusQuery.length = 5 ∧ c.statusQuery.head? = some c.header ∧
    c.stopPayload.length = 3 ∧ (2 ≤ c.agPayload.bytes.length ∧ c.agPayload.bytes.length ≤ 4) ∧ 1 ≤ c.chunkMax ∧
    c.angleClampMin.toNat ≤ c.angleMax.toNat ∧ 1 ≤ c.speedDiv.toNat ∧ c.pwMin.toNat ≤ c.pwMax.toNat ∧
    c.speedMin.toNat ≤ c.speedMax.toNat ∧ c.unitsMin.toNat ≤ c.unitsMax.toNat) ∧
  (∀ s : State, configWf s.cfg = false → step s = .refused .illFormedConfig)

/-- R230, R231: reset asserted. The registers are cleared, CFG stays, no result is delivered, the trace stays (R231). That
the waiting requests and the TX answers stay is the model's choice (log 20). -/
def Obligations.ResetClearsTheRegisters : Prop :=
  ∀ (s : State) (sent : Nat) (taken : Bool) (rest : List RstSample),
    configWf s.cfg = true → s.rstIn = .high sent taken :: rest →
    ∃ t, step s = .next t ∧ t.phase = .idle ∧ t.reqReady = true ∧ t.resValid = false ∧ t.frame = [] ∧ t.log = [] ∧
      t.polls = 0 ∧ t.wfail = false ∧ t.cfg = s.cfg ∧ t.trace = s.trace ∧ t.rstIn = rest ∧ t.reqIn = s.reqIn ∧
      t.txIn = s.txIn

/-- R231: reset inside a `TxWrite` may leave any prefix of the frame on the line; inside an `RxRead` the chunk it had
taken is lost; elsewhere it touches neither stream. -/
def Obligations.ResetInsideATransaction : Prop :=
  ∀ (s : State) (taken : Bool) (rest : List RstSample), configWf s.cfg = true →
    (∀ sentBytes, s.phase = .busy → s.stepAt.writes = true → sentBytes <+: s.frame →
      s.rstIn = .high sentBytes.length taken :: rest →
      ∃ t, step s = .next t ∧ t.phase = .idle ∧ t.line = s.line ++ sentBytes ∧ t.rxIn = s.rxIn ∧ t.trace = s.trace) ∧
    (∀ sent a answers, s.phase = .busy → s.stepAt = .poll → s.rxIn = a :: answers →
      s.rstIn = .high sent taken :: rest →
      ∃ t, step s = .next t ∧ t.phase = .idle ∧ t.line = s.line ∧
        t.rxIn = (if taken then answers else a :: answers) ∧ t.trace = s.trace) ∧
    (∀ sent, s.phase ≠ .busy → s.rstIn = .high sent taken :: rest →
      ∃ t, step s = .next t ∧ t.phase = .idle ∧ t.line = s.line ∧ t.rxIn = s.rxIn ∧ t.trace = s.trace)

/-- R233: with no request waiting, and none arriving on the way, the block does nothing. Over several steps an empty list
of waiting words says that none arrives (log 8). -/
def Obligations.NothingIsSentUnasked : Prop :=
  ∀ (s t : State) (k : Nat), configWf s.cfg = true → s.rstIn = [] → s.phase = .idle → s.reqIn = [] →
    runSteps k s = .next t → t = s

/-- R207: a transaction that never completes leaves the block BUSY and as it is. -/
def Obligations.StuckTransactionStaysBusy : Prop :=
  ∀ (s : State) (i : Instr) (k : Nat), Inv s → s.rstIn = [] → s.phase = .busy → decodeRequest s.req = .ok i →
    (s.stepAt.writes = true ∧ s.nextTx = .never) ∨ (s.stepAt = .poll ∧ s.nextRx = .never) →
    runSteps k s = .next s

/-- The invariant holds after reset. -/
def Obligations.ResetMeetsTheInvariant : Prop := Inv State.reset

/-- R23, R25, R26, R28, R51: every step keeps the invariant. -/
def Obligations.StepKeepsTheInvariant : Prop :=
  ∀ s t : State, Inv s → step s = .next t → Inv t

/-- R207, R12: in every state that meets the invariant the block has a next step, whatever the transport answers. -/
def Obligations.BlockNeverStops : Prop :=
  ∀ s : State, Inv s → ∃ t, step s = .next t

/-- R36: an accepted request ends, with at most 2 writes, 255 reads and 255 delays. -/
def Obligations.EveryOperationEnds : Prop :=
  ∀ s : State, Inv s → s.phase = .busy → s.stepAt = .start → Answered s →
    ∃ (k : Nat) (t : State) (es : List Event), k ≤ 513 ∧ runSteps k s = .next t ∧ t.phase = .done ∧
      t.trace = s.trace ++ es ∧ countTx es ≤ 2 ∧ countRx es ≤ 255 ∧ countDelay es ≤ 255

/-- R30, R41: nothing of an earlier request is observable in a later one: whatever the working registers and RES hold in
IDLE, the observation of every run from there is the same. -/
def Obligations.NoValueIsCarriedOver : Prop :=
  ∀ (s : State) (w : ReqWord) (p : SeqStep) (f l : List Byte) (n : Byte) (b : Bool) (r : Result) (k : Nat) (x y : State),
    s.phase = .idle → runSteps k s = .next x →
    runSteps k { s with req := w, stepAt := p, frame := f, polls := n, log := l, wfail := b, res := r } = .next y →
    y.trace = x.trace ∧ y.line = x.line ∧ y.phase = x.phase ∧ (x.phase = .done → y.res = x.res)

/-- R207, R241: a caller that never takes the result leaves the block DONE and as it is. -/
def Obligations.UntakenResultStaysDone : Prop :=
  ∀ (s : State) (k : Nat), configWf s.cfg = true → s.rstIn = [] → s.phase = .done → s.nextReady = .never →
    runSteps k s = .next s
end

