-- ==== Sys2Proof/Laws/State.lean ====
section
/-! SUPPORT. One lemma for each field and each named update of State, so that no later proof unfolds an update. -/

namespace Sys2Proof.Machine

section
variable (s : State) (w : ReqWord)

@[simp] theorem State.setReq_cfg : (s.setReq w).cfg = s.cfg := rfl
@[simp] theorem State.setReq_phase : (s.setReq w).phase = s.phase := rfl
@[simp] theorem State.setReq_req : (s.setReq w).req = w := rfl
@[simp] theorem State.setReq_stepAt : (s.setReq w).stepAt = s.stepAt := rfl
@[simp] theorem State.setReq_frame : (s.setReq w).frame = s.frame := rfl
@[simp] theorem State.setReq_polls : (s.setReq w).polls = s.polls := rfl
@[simp] theorem State.setReq_log : (s.setReq w).log = s.log := rfl
@[simp] theorem State.setReq_wfail : (s.setReq w).wfail = s.wfail := rfl
@[simp] theorem State.setReq_res : (s.setReq w).res = s.res := rfl
@[simp] theorem State.setReq_rstIn : (s.setReq w).rstIn = s.rstIn := rfl
@[simp] theorem State.setReq_reqIn : (s.setReq w).reqIn = s.reqIn := rfl
@[simp] theorem State.setReq_resReadyIn : (s.setReq w).resReadyIn = s.resReadyIn := rfl
@[simp] theorem State.setReq_txIn : (s.setReq w).txIn = s.txIn := rfl
@[simp] theorem State.setReq_rxIn : (s.setReq w).rxIn = s.rxIn := rfl
@[simp] theorem State.setReq_txDraws : (s.setReq w).txDraws = s.txDraws := rfl
@[simp] theorem State.setReq_rxDraws : (s.setReq w).rxDraws = s.rxDraws := rfl
@[simp] theorem State.setReq_readyDraws : (s.setReq w).readyDraws = s.readyDraws := rfl
@[simp] theorem State.setReq_trace : (s.setReq w).trace = s.trace := rfl
@[simp] theorem State.setReq_line : (s.setReq w).line = s.line := rfl

end

section
variable (s : State) (p : Phase)

@[simp] theorem State.setPhase_cfg : (s.setPhase p).cfg = s.cfg := rfl
@[simp] theorem State.setPhase_phase : (s.setPhase p).phase = p := rfl
@[simp] theorem State.setPhase_req : (s.setPhase p).req = s.req := rfl
@[simp] theorem State.setPhase_stepAt : (s.setPhase p).stepAt = s.stepAt := rfl
@[simp] theorem State.setPhase_frame : (s.setPhase p).frame = s.frame := rfl
@[simp] theorem State.setPhase_polls : (s.setPhase p).polls = s.polls := rfl
@[simp] theorem State.setPhase_log : (s.setPhase p).log = s.log := rfl
@[simp] theorem State.setPhase_wfail : (s.setPhase p).wfail = s.wfail := rfl
@[simp] theorem State.setPhase_res : (s.setPhase p).res = s.res := rfl
@[simp] theorem State.setPhase_rstIn : (s.setPhase p).rstIn = s.rstIn := rfl
@[simp] theorem State.setPhase_reqIn : (s.setPhase p).reqIn = s.reqIn := rfl
@[simp] theorem State.setPhase_resReadyIn : (s.setPhase p).resReadyIn = s.resReadyIn := rfl
@[simp] theorem State.setPhase_txIn : (s.setPhase p).txIn = s.txIn := rfl
@[simp] theorem State.setPhase_rxIn : (s.setPhase p).rxIn = s.rxIn := rfl
@[simp] theorem State.setPhase_txDraws : (s.setPhase p).txDraws = s.txDraws := rfl
@[simp] theorem State.setPhase_rxDraws : (s.setPhase p).rxDraws = s.rxDraws := rfl
@[simp] theorem State.setPhase_readyDraws : (s.setPhase p).readyDraws = s.readyDraws := rfl
@[simp] theorem State.setPhase_trace : (s.setPhase p).trace = s.trace := rfl
@[simp] theorem State.setPhase_line : (s.setPhase p).line = s.line := rfl

end

section
variable (s : State) (p : SeqStep)

@[simp] theorem State.setStep_cfg : (s.setStep p).cfg = s.cfg := rfl
@[simp] theorem State.setStep_phase : (s.setStep p).phase = s.phase := rfl
@[simp] theorem State.setStep_req : (s.setStep p).req = s.req := rfl
@[simp] theorem State.setStep_stepAt : (s.setStep p).stepAt = p := rfl
@[simp] theorem State.setStep_frame : (s.setStep p).frame = s.frame := rfl
@[simp] theorem State.setStep_polls : (s.setStep p).polls = s.polls := rfl
@[simp] theorem State.setStep_log : (s.setStep p).log = s.log := rfl
@[simp] theorem State.setStep_wfail : (s.setStep p).wfail = s.wfail := rfl
@[simp] theorem State.setStep_res : (s.setStep p).res = s.res := rfl
@[simp] theorem State.setStep_rstIn : (s.setStep p).rstIn = s.rstIn := rfl
@[simp] theorem State.setStep_reqIn : (s.setStep p).reqIn = s.reqIn := rfl
@[simp] theorem State.setStep_resReadyIn : (s.setStep p).resReadyIn = s.resReadyIn := rfl
@[simp] theorem State.setStep_txIn : (s.setStep p).txIn = s.txIn := rfl
@[simp] theorem State.setStep_rxIn : (s.setStep p).rxIn = s.rxIn := rfl
@[simp] theorem State.setStep_txDraws : (s.setStep p).txDraws = s.txDraws := rfl
@[simp] theorem State.setStep_rxDraws : (s.setStep p).rxDraws = s.rxDraws := rfl
@[simp] theorem State.setStep_readyDraws : (s.setStep p).readyDraws = s.readyDraws := rfl
@[simp] theorem State.setStep_trace : (s.setStep p).trace = s.trace := rfl
@[simp] theorem State.setStep_line : (s.setStep p).line = s.line := rfl

end

section
variable (s : State) (f : List Byte)

@[simp] theorem State.setFrame_cfg : (s.setFrame f).cfg = s.cfg := rfl
@[simp] theorem State.setFrame_phase : (s.setFrame f).phase = s.phase := rfl
@[simp] theorem State.setFrame_req : (s.setFrame f).req = s.req := rfl
@[simp] theorem State.setFrame_stepAt : (s.setFrame f).stepAt = s.stepAt := rfl
@[simp] theorem State.setFrame_frame : (s.setFrame f).frame = f := rfl
@[simp] theorem State.setFrame_polls : (s.setFrame f).polls = s.polls := rfl
@[simp] theorem State.setFrame_log : (s.setFrame f).log = s.log := rfl
@[simp] theorem State.setFrame_wfail : (s.setFrame f).wfail = s.wfail := rfl
@[simp] theorem State.setFrame_res : (s.setFrame f).res = s.res := rfl
@[simp] theorem State.setFrame_rstIn : (s.setFrame f).rstIn = s.rstIn := rfl
@[simp] theorem State.setFrame_reqIn : (s.setFrame f).reqIn = s.reqIn := rfl
@[simp] theorem State.setFrame_resReadyIn : (s.setFrame f).resReadyIn = s.resReadyIn := rfl
@[simp] theorem State.setFrame_txIn : (s.setFrame f).txIn = s.txIn := rfl
@[simp] theorem State.setFrame_rxIn : (s.setFrame f).rxIn = s.rxIn := rfl
@[simp] theorem State.setFrame_txDraws : (s.setFrame f).txDraws = s.txDraws := rfl
@[simp] theorem State.setFrame_rxDraws : (s.setFrame f).rxDraws = s.rxDraws := rfl
@[simp] theorem State.setFrame_readyDraws : (s.setFrame f).readyDraws = s.readyDraws := rfl
@[simp] theorem State.setFrame_trace : (s.setFrame f).trace = s.trace := rfl
@[simp] theorem State.setFrame_line : (s.setFrame f).line = s.line := rfl

end

section
variable (s : State) (n : Byte)

@[simp] theorem State.setPolls_cfg : (s.setPolls n).cfg = s.cfg := rfl
@[simp] theorem State.setPolls_phase : (s.setPolls n).phase = s.phase := rfl
@[simp] theorem State.setPolls_req : (s.setPolls n).req = s.req := rfl
@[simp] theorem State.setPolls_stepAt : (s.setPolls n).stepAt = s.stepAt := rfl
@[simp] theorem State.setPolls_frame : (s.setPolls n).frame = s.frame := rfl
@[simp] theorem State.setPolls_polls : (s.setPolls n).polls = n := rfl
@[simp] theorem State.setPolls_log : (s.setPolls n).log = s.log := rfl
@[simp] theorem State.setPolls_wfail : (s.setPolls n).wfail = s.wfail := rfl
@[simp] theorem State.setPolls_res : (s.setPolls n).res = s.res := rfl
@[simp] theorem State.setPolls_rstIn : (s.setPolls n).rstIn = s.rstIn := rfl
@[simp] theorem State.setPolls_reqIn : (s.setPolls n).reqIn = s.reqIn := rfl
@[simp] theorem State.setPolls_resReadyIn : (s.setPolls n).resReadyIn = s.resReadyIn := rfl
@[simp] theorem State.setPolls_txIn : (s.setPolls n).txIn = s.txIn := rfl
@[simp] theorem State.setPolls_rxIn : (s.setPolls n).rxIn = s.rxIn := rfl
@[simp] theorem State.setPolls_txDraws : (s.setPolls n).txDraws = s.txDraws := rfl
@[simp] theorem State.setPolls_rxDraws : (s.setPolls n).rxDraws = s.rxDraws := rfl
@[simp] theorem State.setPolls_readyDraws : (s.setPolls n).readyDraws = s.readyDraws := rfl
@[simp] theorem State.setPolls_trace : (s.setPolls n).trace = s.trace := rfl
@[simp] theorem State.setPolls_line : (s.setPolls n).line = s.line := rfl

end

section
variable (s : State) (xs : List Byte)

@[simp] theorem State.setLog_cfg : (s.setLog xs).cfg = s.cfg := rfl
@[simp] theorem State.setLog_phase : (s.setLog xs).phase = s.phase := rfl
@[simp] theorem State.setLog_req : (s.setLog xs).req = s.req := rfl
@[simp] theorem State.setLog_stepAt : (s.setLog xs).stepAt = s.stepAt := rfl
@[simp] theorem State.setLog_frame : (s.setLog xs).frame = s.frame := rfl
@[simp] theorem State.setLog_polls : (s.setLog xs).polls = s.polls := rfl
@[simp] theorem State.setLog_log : (s.setLog xs).log = xs := rfl
@[simp] theorem State.setLog_wfail : (s.setLog xs).wfail = s.wfail := rfl
@[simp] theorem State.setLog_res : (s.setLog xs).res = s.res := rfl
@[simp] theorem State.setLog_rstIn : (s.setLog xs).rstIn = s.rstIn := rfl
@[simp] theorem State.setLog_reqIn : (s.setLog xs).reqIn = s.reqIn := rfl
@[simp] theorem State.setLog_resReadyIn : (s.setLog xs).resReadyIn = s.resReadyIn := rfl
@[simp] theorem State.setLog_txIn : (s.setLog xs).txIn = s.txIn := rfl
@[simp] theorem State.setLog_rxIn : (s.setLog xs).rxIn = s.rxIn := rfl
@[simp] theorem State.setLog_txDraws : (s.setLog xs).txDraws = s.txDraws := rfl
@[simp] theorem State.setLog_rxDraws : (s.setLog xs).rxDraws = s.rxDraws := rfl
@[simp] theorem State.setLog_readyDraws : (s.setLog xs).readyDraws = s.readyDraws := rfl
@[simp] theorem State.setLog_trace : (s.setLog xs).trace = s.trace := rfl
@[simp] theorem State.setLog_line : (s.setLog xs).line = s.line := rfl

end

section
variable (s : State) (b : Bool)

@[simp] theorem State.setWfail_cfg : (s.setWfail b).cfg = s.cfg := rfl
@[simp] theorem State.setWfail_phase : (s.setWfail b).phase = s.phase := rfl
@[simp] theorem State.setWfail_req : (s.setWfail b).req = s.req := rfl
@[simp] theorem State.setWfail_stepAt : (s.setWfail b).stepAt = s.stepAt := rfl
@[simp] theorem State.setWfail_frame : (s.setWfail b).frame = s.frame := rfl
@[simp] theorem State.setWfail_polls : (s.setWfail b).polls = s.polls := rfl
@[simp] theorem State.setWfail_log : (s.setWfail b).log = s.log := rfl
@[simp] theorem State.setWfail_wfail : (s.setWfail b).wfail = b := rfl
@[simp] theorem State.setWfail_res : (s.setWfail b).res = s.res := rfl
@[simp] theorem State.setWfail_rstIn : (s.setWfail b).rstIn = s.rstIn := rfl
@[simp] theorem State.setWfail_reqIn : (s.setWfail b).reqIn = s.reqIn := rfl
@[simp] theorem State.setWfail_resReadyIn : (s.setWfail b).resReadyIn = s.resReadyIn := rfl
@[simp] theorem State.setWfail_txIn : (s.setWfail b).txIn = s.txIn := rfl
@[simp] theorem State.setWfail_rxIn : (s.setWfail b).rxIn = s.rxIn := rfl
@[simp] theorem State.setWfail_txDraws : (s.setWfail b).txDraws = s.txDraws := rfl
@[simp] theorem State.setWfail_rxDraws : (s.setWfail b).rxDraws = s.rxDraws := rfl
@[simp] theorem State.setWfail_readyDraws : (s.setWfail b).readyDraws = s.readyDraws := rfl
@[simp] theorem State.setWfail_trace : (s.setWfail b).trace = s.trace := rfl
@[simp] theorem State.setWfail_line : (s.setWfail b).line = s.line := rfl

end

section
variable (s : State) (r : Result)

@[simp] theorem State.setRes_cfg : (s.setRes r).cfg = s.cfg := rfl
@[simp] theorem State.setRes_phase : (s.setRes r).phase = s.phase := rfl
@[simp] theorem State.setRes_req : (s.setRes r).req = s.req := rfl
@[simp] theorem State.setRes_stepAt : (s.setRes r).stepAt = s.stepAt := rfl
@[simp] theorem State.setRes_frame : (s.setRes r).frame = s.frame := rfl
@[simp] theorem State.setRes_polls : (s.setRes r).polls = s.polls := rfl
@[simp] theorem State.setRes_log : (s.setRes r).log = s.log := rfl
@[simp] theorem State.setRes_wfail : (s.setRes r).wfail = s.wfail := rfl
@[simp] theorem State.setRes_res : (s.setRes r).res = r := rfl
@[simp] theorem State.setRes_rstIn : (s.setRes r).rstIn = s.rstIn := rfl
@[simp] theorem State.setRes_reqIn : (s.setRes r).reqIn = s.reqIn := rfl
@[simp] theorem State.setRes_resReadyIn : (s.setRes r).resReadyIn = s.resReadyIn := rfl
@[simp] theorem State.setRes_txIn : (s.setRes r).txIn = s.txIn := rfl
@[simp] theorem State.setRes_rxIn : (s.setRes r).rxIn = s.rxIn := rfl
@[simp] theorem State.setRes_txDraws : (s.setRes r).txDraws = s.txDraws := rfl
@[simp] theorem State.setRes_rxDraws : (s.setRes r).rxDraws = s.rxDraws := rfl
@[simp] theorem State.setRes_readyDraws : (s.setRes r).readyDraws = s.readyDraws := rfl
@[simp] theorem State.setRes_trace : (s.setRes r).trace = s.trace := rfl
@[simp] theorem State.setRes_line : (s.setRes r).line = s.line := rfl

end

section
variable (s : State) (e : Event)

@[simp] theorem State.record_cfg : (s.record e).cfg = s.cfg := rfl
@[simp] theorem State.record_phase : (s.record e).phase = s.phase := rfl
@[simp] theorem State.record_req : (s.record e).req = s.req := rfl
@[simp] theorem State.record_stepAt : (s.record e).stepAt = s.stepAt := rfl
@[simp] theorem State.record_frame : (s.record e).frame = s.frame := rfl
@[simp] theorem State.record_polls : (s.record e).polls = s.polls := rfl
@[simp] theorem State.record_log : (s.record e).log = s.log := rfl
@[simp] theorem State.record_wfail : (s.record e).wfail = s.wfail := rfl
@[simp] theorem State.record_res : (s.record e).res = s.res := rfl
@[simp] theorem State.record_rstIn : (s.record e).rstIn = s.rstIn := rfl
@[simp] theorem State.record_reqIn : (s.record e).reqIn = s.reqIn := rfl
@[simp] theorem State.record_resReadyIn : (s.record e).resReadyIn = s.resReadyIn := rfl
@[simp] theorem State.record_txIn : (s.record e).txIn = s.txIn := rfl
@[simp] theorem State.record_rxIn : (s.record e).rxIn = s.rxIn := rfl
@[simp] theorem State.record_txDraws : (s.record e).txDraws = s.txDraws := rfl
@[simp] theorem State.record_rxDraws : (s.record e).rxDraws = s.rxDraws := rfl
@[simp] theorem State.record_readyDraws : (s.record e).readyDraws = s.readyDraws := rfl
@[simp] theorem State.record_trace : (s.record e).trace = s.trace ++ [e] := rfl
@[simp] theorem State.record_line : (s.record e).line = s.line := rfl

end

section
variable (s : State) (bs : List Byte)

@[simp] theorem State.putLine_cfg : (s.putLine bs).cfg = s.cfg := rfl
@[simp] theorem State.putLine_phase : (s.putLine bs).phase = s.phase := rfl
@[simp] theorem State.putLine_req : (s.putLine bs).req = s.req := rfl
@[simp] theorem State.putLine_stepAt : (s.putLine bs).stepAt = s.stepAt := rfl
@[simp] theorem State.putLine_frame : (s.putLine bs).frame = s.frame := rfl
@[simp] theorem State.putLine_polls : (s.putLine bs).polls = s.polls := rfl
@[simp] theorem State.putLine_log : (s.putLine bs).log = s.log := rfl
@[simp] theorem State.putLine_wfail : (s.putLine bs).wfail = s.wfail := rfl
@[simp] theorem State.putLine_res : (s.putLine bs).res = s.res := rfl
@[simp] theorem State.putLine_rstIn : (s.putLine bs).rstIn = s.rstIn := rfl
@[simp] theorem State.putLine_reqIn : (s.putLine bs).reqIn = s.reqIn := rfl
@[simp] theorem State.putLine_resReadyIn : (s.putLine bs).resReadyIn = s.resReadyIn := rfl
@[simp] theorem State.putLine_txIn : (s.putLine bs).txIn = s.txIn := rfl
@[simp] theorem State.putLine_rxIn : (s.putLine bs).rxIn = s.rxIn := rfl
@[simp] theorem State.putLine_txDraws : (s.putLine bs).txDraws = s.txDraws := rfl
@[simp] theorem State.putLine_rxDraws : (s.putLine bs).rxDraws = s.rxDraws := rfl
@[simp] theorem State.putLine_readyDraws : (s.putLine bs).readyDraws = s.readyDraws := rfl
@[simp] theorem State.putLine_trace : (s.putLine bs).trace = s.trace := rfl
@[simp] theorem State.putLine_line : (s.putLine bs).line = s.line ++ bs := rfl

end

section
variable (s : State)

@[simp] theorem State.tick_cfg : s.tick.cfg = s.cfg := rfl
@[simp] theorem State.tick_phase : s.tick.phase = s.phase := rfl
@[simp] theorem State.tick_req : s.tick.req = s.req := rfl
@[simp] theorem State.tick_stepAt : s.tick.stepAt = s.stepAt := rfl
@[simp] theorem State.tick_frame : s.tick.frame = s.frame := rfl
@[simp] theorem State.tick_polls : s.tick.polls = s.polls := rfl
@[simp] theorem State.tick_log : s.tick.log = s.log := rfl
@[simp] theorem State.tick_wfail : s.tick.wfail = s.wfail := rfl
@[simp] theorem State.tick_res : s.tick.res = s.res := rfl
@[simp] theorem State.tick_rstIn : s.tick.rstIn = s.rstIn.tail := rfl
@[simp] theorem State.tick_reqIn : s.tick.reqIn = s.reqIn := rfl
@[simp] theorem State.tick_resReadyIn : s.tick.resReadyIn = s.resReadyIn := rfl
@[simp] theorem State.tick_txIn : s.tick.txIn = s.txIn := rfl
@[simp] theorem State.tick_rxIn : s.tick.rxIn = s.rxIn := rfl
@[simp] theorem State.tick_txDraws : s.tick.txDraws = s.txDraws := rfl
@[simp] theorem State.tick_rxDraws : s.tick.rxDraws = s.rxDraws := rfl
@[simp] theorem State.tick_readyDraws : s.tick.readyDraws = s.readyDraws := rfl
@[simp] theorem State.tick_trace : s.tick.trace = s.trace := rfl
@[simp] theorem State.tick_line : s.tick.line = s.line := rfl

@[simp] theorem State.dropTx_cfg : s.dropTx.cfg = s.cfg := by unfold State.dropTx; split <;> rfl
@[simp] theorem State.dropTx_phase : s.dropTx.phase = s.phase := by unfold State.dropTx; split <;> rfl
@[simp] theorem State.dropTx_req : s.dropTx.req = s.req := by unfold State.dropTx; split <;> rfl
@[simp] theorem State.dropTx_stepAt : s.dropTx.stepAt = s.stepAt := by unfold State.dropTx; split <;> rfl
@[simp] theorem State.dropTx_frame : s.dropTx.frame = s.frame := by unfold State.dropTx; split <;> rfl
@[simp] theorem State.dropTx_polls : s.dropTx.polls = s.polls := by unfold State.dropTx; split <;> rfl
@[simp] theorem State.dropTx_log : s.dropTx.log = s.log := by unfold State.dropTx; split <;> rfl
@[simp] theorem State.dropTx_wfail : s.dropTx.wfail = s.wfail := by unfold State.dropTx; split <;> rfl
@[simp] theorem State.dropTx_res : s.dropTx.res = s.res := by unfold State.dropTx; split <;> rfl
@[simp] theorem State.dropTx_rstIn : s.dropTx.rstIn = s.rstIn := by unfold State.dropTx; split <;> rfl
@[simp] theorem State.dropTx_reqIn : s.dropTx.reqIn = s.reqIn := by unfold State.dropTx; split <;> rfl
@[simp] theorem State.dropTx_resReadyIn : s.dropTx.resReadyIn = s.resReadyIn := by unfold State.dropTx; split <;> rfl
@[simp] theorem State.dropTx_rxIn : s.dropTx.rxIn = s.rxIn := by unfold State.dropTx; split <;> rfl
@[simp] theorem State.dropTx_rxDraws : s.dropTx.rxDraws = s.rxDraws := by unfold State.dropTx; split <;> rfl
@[simp] theorem State.dropTx_readyDraws : s.dropTx.readyDraws = s.readyDraws := by unfold State.dropTx; split <;> rfl
@[simp] theorem State.dropTx_trace : s.dropTx.trace = s.trace := by unfold State.dropTx; split <;> rfl
@[simp] theorem State.dropTx_line : s.dropTx.line = s.line := by unfold State.dropTx; split <;> rfl
@[simp] theorem State.dropTx_txIn : s.dropTx.txIn = s.txIn.tail := by
  unfold State.dropTx; split <;> simp_all

@[simp] theorem State.dropRx_cfg : s.dropRx.cfg = s.cfg := by unfold State.dropRx; split <;> rfl
@[simp] theorem State.dropRx_phase : s.dropRx.phase = s.phase := by unfold State.dropRx; split <;> rfl
@[simp] theorem State.dropRx_req : s.dropRx.req = s.req := by unfold State.dropRx; split <;> rfl
@[simp] theorem State.dropRx_stepAt : s.dropRx.stepAt = s.stepAt := by unfold State.dropRx; split <;> rfl
@[simp] theorem State.dropRx_frame : s.dropRx.frame = s.frame := by unfold State.dropRx; split <;> rfl
@[simp] theorem State.dropRx_polls : s.dropRx.polls = s.polls := by unfold State.dropRx; split <;> rfl
@[simp] theorem State.dropRx_log : s.dropRx.log = s.log := by unfold State.dropRx; split <;> rfl
@[simp] theorem State.dropRx_wfail : s.dropRx.wfail = s.wfail := by unfold State.dropRx; split <;> rfl
@[simp] theorem State.dropRx_res : s.dropRx.res = s.res := by unfold State.dropRx; split <;> rfl
@[simp] theorem State.dropRx_rstIn : s.dropRx.rstIn = s.rstIn := by unfold State.dropRx; split <;> rfl
@[simp] theorem State.dropRx_reqIn : s.dropRx.reqIn = s.reqIn := by unfold State.dropRx; split <;> rfl
@[simp] theorem State.dropRx_resReadyIn : s.dropRx.resReadyIn = s.resReadyIn := by unfold State.dropRx; split <;> rfl
@[simp] theorem State.dropRx_txIn : s.dropRx.txIn = s.txIn := by unfold State.dropRx; split <;> rfl
@[simp] theorem State.dropRx_readyDraws : s.dropRx.readyDraws = s.readyDraws := by unfold State.dropRx; split <;> rfl
@[simp] theorem State.dropRx_txDraws : s.dropRx.txDraws = s.txDraws := by unfold State.dropRx; split <;> rfl
@[simp] theorem State.dropRx_trace : s.dropRx.trace = s.trace := by unfold State.dropRx; split <;> rfl
@[simp] theorem State.dropRx_line : s.dropRx.line = s.line := by unfold State.dropRx; split <;> rfl
@[simp] theorem State.dropRx_rxIn : s.dropRx.rxIn = s.rxIn.tail := by
  unfold State.dropRx; split <;> simp_all

@[simp] theorem State.dropReady_cfg : s.dropReady.cfg = s.cfg := by unfold State.dropReady; split <;> rfl
@[simp] theorem State.dropReady_phase : s.dropReady.phase = s.phase := by unfold State.dropReady; split <;> rfl
@[simp] theorem State.dropReady_req : s.dropReady.req = s.req := by unfold State.dropReady; split <;> rfl
@[simp] theorem State.dropReady_stepAt : s.dropReady.stepAt = s.stepAt := by unfold State.dropReady; split <;> rfl
@[simp] theorem State.dropReady_frame : s.dropReady.frame = s.frame := by unfold State.dropReady; split <;> rfl
@[simp] theorem State.dropReady_polls : s.dropReady.polls = s.polls := by unfold State.dropReady; split <;> rfl
@[simp] theorem State.dropReady_log : s.dropReady.log = s.log := by unfold State.dropReady; split <;> rfl
@[simp] theorem State.dropReady_wfail : s.dropReady.wfail = s.wfail := by unfold State.dropReady; split <;> rfl
@[simp] theorem State.dropReady_res : s.dropReady.res = s.res := by unfold State.dropReady; split <;> rfl
@[simp] theorem State.dropReady_rstIn : s.dropReady.rstIn = s.rstIn := by unfold State.dropReady; split <;> rfl
@[simp] theorem State.dropReady_reqIn : s.dropReady.reqIn = s.reqIn := by unfold State.dropReady; split <;> rfl
@[simp] theorem State.dropReady_txIn : s.dropReady.txIn = s.txIn := by unfold State.dropReady; split <;> rfl
@[simp] theorem State.dropReady_rxIn : s.dropReady.rxIn = s.rxIn := by unfold State.dropReady; split <;> rfl
@[simp] theorem State.dropReady_txDraws : s.dropReady.txDraws = s.txDraws := by unfold State.dropReady; split <;> rfl
@[simp] theorem State.dropReady_rxDraws : s.dropReady.rxDraws = s.rxDraws := by unfold State.dropReady; split <;> rfl
@[simp] theorem State.dropReady_trace : s.dropReady.trace = s.trace := by unfold State.dropReady; split <;> rfl
@[simp] theorem State.dropReady_line : s.dropReady.line = s.line := by unfold State.dropReady; split <;> rfl
@[simp] theorem State.dropReady_resReadyIn : s.dropReady.resReadyIn = s.resReadyIn.tail := by
  unfold State.dropReady; split <;> simp_all

end

end Sys2Proof.Machine
end

