-- ==== Sys2Proof/Laws/Ops.lean ====
section
/-! SUPPORT. For each shared operation, what it does, said once. -/

namespace Sys2Proof.Machine

/-! ## return and raise -/

theorem finish_eq (r : Result) (s : State) : finish r s = { s with phase := .done, res := r } := rfl

theorem raise_eq (st : Status) (info : Byte) (s : State) :
    raise st info s = { s with phase := .done, res := Result.error st info } := rfl

/-- Validation either raises, and the state is otherwise untouched, or goes on. -/
theorem validated_cases (checks : List (Bool × Byte)) (s : State) (go : State → State) :
    (firstBad checks = none ∧ validated checks s go = go s) ∨
    (∃ info, firstBad checks = some info ∧
      validated checks s go = { s with phase := .done, res := Result.error .validationError info }) := by
  unfold validated
  split
  · exact .inr ⟨_, by assumption, rfl⟩
  · exact .inl ⟨by assumption, rfl⟩

theorem firstBad_nil : firstBad [] = none := rfl

theorem firstBad_cons (out : Bool) (info : Byte) (rest : List (Bool × Byte)) :
    firstBad ((out, info) :: rest) = if out then some info else firstBad rest := rfl

/-! ## The ports -/

/-- All that a `TxWrite` can do, by the answer. -/
theorem txWrite_cases (s : State) (resume : Bool → State → State) :
    (s.nextTx = .accepted ∧
      txWrite s resume = resume true ((s.dropTx.putLine s.frame).record (.tx s.frame true))) ∨
    (∃ sent, s.nextTx = .failed sent ∧
      txWrite s resume = resume false ((s.dropTx.putLine (s.frame.take sent)).record (.tx s.frame false))) ∨
    (s.nextTx = .never ∧ txWrite s resume = s) := by
  unfold txWrite
  cases h : s.nextTx with
  | accepted => exact .inl ⟨rfl, rfl⟩
  | failed sent => exact .inr (.inl ⟨sent, rfl, rfl⟩)
  | never => exact .inr (.inr ⟨rfl, rfl⟩)

theorem txWrite_accepted {s : State} {rest : List TxAnswer} (h : s.txIn = .accepted :: rest)
    (resume : Bool → State → State) :
    txWrite s resume =
      resume true { s with txIn := rest, line := s.line ++ s.frame, trace := s.trace ++ [.tx s.frame true] } := by
  simp only [txWrite, State.nextTx, State.dropTx, h]; rfl

theorem txWrite_failed {s : State} {sent : Nat} {rest : List TxAnswer} (h : s.txIn = .failed sent :: rest)
    (resume : Bool → State → State) :
    txWrite s resume =
      resume false
        { s with txIn := rest, line := s.line ++ s.frame.take sent, trace := s.trace ++ [.tx s.frame false] } := by
  simp only [txWrite, State.nextTx, State.dropTx, h]; rfl

/-- All that an `RxRead` can do, by the answer. -/
theorem rxRead_cases (s : State) (resume : Chunk → State → State) :
    (∃ c, chunkOf s.cfg.chunkMax s.nextRx = some c ∧
      rxRead s resume = resume c (s.dropRx.record (.rx c))) ∨
    (s.nextRx = .never ∧ rxRead s resume = s) := by
  unfold rxRead
  cases h : s.nextRx with
  | bytes x xs => exact .inl ⟨_, rfl, rfl⟩
  | empty => exact .inl ⟨_, rfl, rfl⟩
  | readError => exact .inl ⟨_, rfl, rfl⟩
  | never => exact .inr ⟨rfl, rfl⟩

theorem rxRead_cons {s : State} {a : RxAnswer} {rest : List RxAnswer} {c : Chunk} (h : s.rxIn = a :: rest)
    (hc : chunkOf s.cfg.chunkMax a = some c) (resume : Chunk → State → State) :
    rxRead s resume = resume c { s with rxIn := rest, trace := s.trace ++ [.rx c] } := by
  simp only [rxRead, State.nextRx, State.dropRx, h, hc]; rfl

/-- A chunk holds 1 to CHUNK_MAX bytes (10_state.md R35). -/
theorem chunkOf_length {m : Nat} (hm : 1 ≤ m) {a : RxAnswer} {xs : List Byte} (h : chunkOf m a = some (.bytes xs)) :
    1 ≤ xs.length ∧ xs.length ≤ m := by
  cases a <;> simp only [chunkOf, Option.some.injEq, Chunk.bytes.injEq, reduceCtorEq] at h
  subst h
  simp only [List.length_cons, List.length_take]
  omega

/-- Every legal chunk is the answer of some oracle: clipping shuts none out (log 3). -/
theorem chunkOf_surjective {m : Nat} {xs : List Byte} (h1 : xs ≠ []) (h2 : xs.length ≤ m) :
    ∃ a, chunkOf m a = some (.bytes xs) := by
  cases xs with
  | nil => exact absurd rfl h1
  | cons x xs =>
    refine ⟨.bytes x xs, ?_⟩
    simp only [List.length_cons] at h2
    simp only [chunkOf, List.take_of_length_le (show xs.length ≤ m - 1 by omega)]

/-! ## The match tests -/

theorem hasRun_iff {α : Type} [DecidableEq α] (p xs : List α) :
    hasRun p xs = true ↔ ∃ pre post, xs = pre ++ p ++ post := by
  induction xs with
  | nil =>
    simp only [hasRun, List.isPrefixOf_iff_prefix, List.prefix_nil]
    constructor
    · rintro rfl; exact ⟨[], [], rfl⟩
    · rintro ⟨pre, post, h⟩; simp_all
  | cons x xs ih =>
    simp only [hasRun, Bool.or_eq_true, List.isPrefixOf_iff_prefix, ih]
    constructor
    · rintro (⟨post, h⟩ | ⟨pre, post, h⟩)
      · exact ⟨[], post, by simp [h]⟩
      · exact ⟨x :: pre, post, by simp [h]⟩
    · rintro ⟨pre, post, h⟩
      cases pre with
      | nil => exact .inl ⟨post, by simpa using h.symm⟩
      | cons y pre => exact .inr ⟨pre, post, by simpa using (List.cons.inj h).2⟩

@[simp] theorem hexText_length (xs : List Byte) : (hexText xs).length = 2 * xs.length := by
  induction xs with
  | nil => rfl
  | cons x xs ih => simp [hexText, ih]; omega

theorem hexText_append (xs ys : List Byte) : hexText (xs ++ ys) = hexText xs ++ hexText ys := by
  induction xs with
  | nil => rfl
  | cons x xs ih => simp [hexText, ih]

/-! ## The converter and the frames -/

theorem pulseOf_toNat {c : Config} {angle : Nat} (h : exactPulse c angle < 65536) :
    (pulseOf c angle).toNat = exactPulse c angle := by
  simp only [pulseOf, h, if_true, BitVec.toNat_ofNat]
  omega

theorem high_toNat (v : Half) : (high v).toNat = v.toNat / 256 := by
  have := v.isLt
  simp only [high, BitVec.extractLsb'_toNat, Nat.shiftRight_eq_div_pow]
  omega

theorem low_toNat (v : Half) : (low v).toNat = v.toNat % 256 := by
  simp only [low, BitVec.extractLsb'_toNat, Nat.shiftRight_eq_div_pow]
  omega

theorem combine_toNat (hi lo : Byte) : (combine hi lo).toNat = 256 * hi.toNat + lo.toNat := by
  have := hi.isLt
  have := lo.isLt
  simp only [combine, BitVec.toNat_ofNat]
  omega

@[simp] theorem high_combine (hi lo : Byte) : high (combine hi lo) = hi := by
  have := lo.isLt
  apply BitVec.eq_of_toNat_eq
  rw [high_toNat, combine_toNat]
  omega

@[simp] theorem low_combine (hi lo : Byte) : low (combine hi lo) = lo := by
  have := lo.isLt
  apply BitVec.eq_of_toNat_eq
  rw [low_toNat, combine_toNat]
  omega

@[simp] theorem combine_split (v : Half) : combine (high v) (low v) = v := by
  apply BitVec.eq_of_toNat_eq
  rw [combine_toNat, high_toNat, low_toNat]
  omega

/-- The configuration check, as the conditions it stands for. -/
theorem configWf_iff (c : Config) : configWf c = true ↔
    c.statusAnswer ≠ [] ∧ c.statusQuery.length = 5 ∧ c.statusQuery.head? = some c.header ∧
    c.stopPayload.length = 3 ∧ 1 ≤ c.chunkMax ∧
    c.angleClampMin.toNat ≤ c.angleMax.toNat ∧ 1 ≤ c.speedDiv.toNat ∧ c.pwMin.toNat ≤ c.pwMax.toNat ∧
    c.speedMin.toNat ≤ c.speedMax.toNat ∧ c.unitsMin.toNat ≤ c.unitsMax.toNat := by
  simp only [configWf, Bool.and_eq_true, decide_eq_true_eq, and_assoc]

/-- A write leaves every register as it is. -/
theorem dropTx_registers (s : State) (bs : List Byte) (e : Event) :
    let t := (s.dropTx.putLine bs).record e
    t.req = s.req ∧ t.stepAt = s.stepAt ∧ t.frame = s.frame ∧ t.polls = s.polls ∧ t.log = s.log ∧
      t.wfail = s.wfail ∧ t.cfg = s.cfg ∧ t.phase = s.phase := by
  unfold State.dropTx
  split <;> exact ⟨rfl, rfl, rfl, rfl, rfl, rfl, rfl, rfl⟩

/-- A read leaves every register as it is. -/
theorem dropRx_registers (s : State) (e : Event) :
    let t := s.dropRx.record e
    t.req = s.req ∧ t.stepAt = s.stepAt ∧ t.frame = s.frame ∧ t.polls = s.polls ∧ t.log = s.log ∧
      t.wfail = s.wfail ∧ t.cfg = s.cfg ∧ t.phase = s.phase := by
  unfold State.dropRx
  split <;> exact ⟨rfl, rfl, rfl, rfl, rfl, rfl, rfl, rfl⟩

theorem agPayload_length (p : AgPayload) : 2 ≤ p.bytes.length ∧ p.bytes.length ≤ 4 := by
  cases p <;> simp [AgPayload.bytes]

end Sys2Proof.Machine
end

