-- ==== Sys2Proof/Laws/Decode.lean ====
section
/-! SUPPORT. The fields of a request word as numbers, and what they are in an encoded one. -/

namespace Sys2Proof

open Machine

theorem fieldOp_toNat (w : ReqWord) : (fieldOp w).toNat = w.toNat / 2 ^ 28 := by
  have := w.isLt
  simp only [fieldOp, BitVec.extractLsb'_toNat, Nat.shiftRight_eq_div_pow]
  omega

theorem fieldRsv_toNat (w : ReqWord) : (fieldRsv w).toNat = w.toNat / 2 ^ 24 % 16 := by
  simp only [fieldRsv, BitVec.extractLsb'_toNat, Nat.shiftRight_eq_div_pow]

theorem fieldA_toNat (w : ReqWord) : (fieldA w).toNat = w.toNat / 2 ^ 16 % 256 := by
  simp only [fieldA, BitVec.extractLsb'_toNat, Nat.shiftRight_eq_div_pow]

theorem fieldB_toNat (w : ReqWord) : (fieldB w).toNat = w.toNat % 65536 := by
  simp only [fieldB, BitVec.extractLsb'_toNat, Nat.shiftRight_zero]

theorem requestWord_toNat (op : BitVec 4) (a : Byte) (b : Half) :
    (requestWord op a b).toNat = op.toNat * 2 ^ 28 + a.toNat * 2 ^ 16 + b.toNat := by
  have := a.isLt
  have := b.isLt
  simp only [requestWord, BitVec.toNat_append, Nat.shiftLeft_eq]
  rw [Nat.mul_comm _ (2 ^ 16), ← Nat.two_pow_add_eq_or_of_lt (by omega), Nat.mul_comm _ (2 ^ 8),
    ← Nat.two_pow_add_eq_or_of_lt (by omega), Nat.mul_comm _ (2 ^ 4), ← Nat.two_pow_add_eq_or_of_lt (by simp)]
  simp only [BitVec.ofNat_eq_ofNat, BitVec.toNat_ofNat, Nat.zero_mod]
  omega

@[simp] theorem fieldOp_requestWord (op : BitVec 4) (a : Byte) (b : Half) : fieldOp (requestWord op a b) = op := by
  have := a.isLt
  have := b.isLt
  apply BitVec.eq_of_toNat_eq
  rw [fieldOp_toNat, requestWord_toNat]
  omega

@[simp] theorem fieldRsv_requestWord (op : BitVec 4) (a : Byte) (b : Half) : fieldRsv (requestWord op a b) = 0#4 := by
  have := a.isLt
  have := b.isLt
  apply BitVec.eq_of_toNat_eq
  rw [fieldRsv_toNat, requestWord_toNat]
  simp only [BitVec.toNat_ofNat]
  omega

@[simp] theorem fieldA_requestWord (op : BitVec 4) (a : Byte) (b : Half) : fieldA (requestWord op a b) = a := by
  have := a.isLt
  have := b.isLt
  apply BitVec.eq_of_toNat_eq
  rw [fieldA_toNat, requestWord_toNat]
  omega

@[simp] theorem fieldB_requestWord (op : BitVec 4) (a : Byte) (b : Half) : fieldB (requestWord op a b) = b := by
  have := b.isLt
  apply BitVec.eq_of_toNat_eq
  rw [fieldB_toNat, requestWord_toNat]
  omega

/-- A word is its four fields. -/
theorem requestWord_fields {w : ReqWord} (h : fieldRsv w = 0#4) : requestWord (fieldOp w) (fieldA w) (fieldB w) = w := by
  have h' : (fieldRsv w).toNat = 0 := by rw [h]; rfl
  rw [fieldRsv_toNat] at h'
  apply BitVec.eq_of_toNat_eq
  rw [requestWord_toNat, fieldOp_toNat, fieldA_toNat, fieldB_toNat]
  have := w.isLt
  omega

/-! The operand fields that the masks of 30_encoding.md R71 cover. -/

@[simp] theorem and_maskA (w : ReqWord) : w &&& 0x00FF0000#32 = 0#32 ↔ fieldA w = 0#8 := by
  have e : (w &&& 0x00FF0000#32).toNat = w.toNat / 2 ^ 16 % 256 * 2 ^ 16 := by
    simp only [BitVec.toNat_and, BitVec.toNat_ofNat]
    rw [show (16711680 % 2 ^ 32 : Nat) = (2 ^ 8 - 1) * 2 ^ 16 by norm_num, ← Nat.shiftLeft_eq (2 ^ 8 - 1) 16,
      ← Nat.shiftLeft_eq (w.toNat / 2 ^ 16 % 256) 16, ← Nat.shiftRight_eq_div_pow,
      show (256 : Nat) = 2 ^ 8 by norm_num, ← Nat.and_two_pow_sub_one_eq_mod]
    apply Nat.eq_of_testBit_eq
    intro i
    simp only [Nat.testBit_and, Nat.testBit_shiftLeft, Nat.testBit_shiftRight]
    by_cases hi : 16 ≤ i
    · simp only [ge_iff_le, hi, decide_true, Bool.true_and, Nat.add_sub_cancel' hi]
    · simp [hi]
  rw [← BitVec.toNat_inj, e, ← BitVec.toNat_inj, fieldA_toNat]
  simp only [BitVec.toNat_ofNat, Nat.zero_mod]
  omega

@[simp] theorem and_maskB (w : ReqWord) : w &&& 0x0000FFFF#32 = 0#32 ↔ fieldB w = 0#16 := by
  have e : (w &&& 0x0000FFFF#32).toNat = w.toNat % 65536 := by
    simp only [BitVec.toNat_and, BitVec.toNat_ofNat]
    exact Nat.and_two_pow_sub_one_eq_mod w.toNat 16
  rw [← BitVec.toNat_inj, e, ← BitVec.toNat_inj, fieldB_toNat]
  rfl

@[simp] theorem and_maskAB (w : ReqWord) : w &&& 0x00FFFFFF#32 = 0#32 ↔ fieldA w = 0#8 ∧ fieldB w = 0#16 := by
  have e : (w &&& 0x00FFFFFF#32).toNat = w.toNat % 2 ^ 24 := by
    simp only [BitVec.toNat_and, BitVec.toNat_ofNat]
    exact Nat.and_two_pow_sub_one_eq_mod w.toNat 24
  rw [← BitVec.toNat_inj, e, ← BitVec.toNat_inj, ← BitVec.toNat_inj, fieldA_toNat, fieldB_toNat]
  simp only [BitVec.toNat_ofNat, Nat.zero_mod]
  omega

@[simp] theorem and_maskMode (w : ReqWord) :
    w &&& 0x00FFFFFE#32 = 0#32 ↔ fieldA w = 0#8 ∧ (fieldB w = 0#16 ∨ fieldB w = 1#16) := by
  have e : (w &&& 0x00FFFFFE#32).toNat = w.toNat / 2 % 2 ^ 23 * 2 := by
    simp only [BitVec.toNat_and, BitVec.toNat_ofNat]
    rw [show (16777214 % 2 ^ 32 : Nat) = (2 ^ 23 - 1) * 2 ^ 1 by norm_num, ← Nat.shiftLeft_eq (2 ^ 23 - 1) 1,
      show w.toNat / 2 % 2 ^ 23 * 2 = (w.toNat / 2 ^ 1 % 2 ^ 23) * 2 ^ 1 by norm_num,
      ← Nat.shiftLeft_eq (w.toNat / 2 ^ 1 % 2 ^ 23) 1, ← Nat.shiftRight_eq_div_pow, ← Nat.and_two_pow_sub_one_eq_mod]
    apply Nat.eq_of_testBit_eq
    intro i
    simp only [Nat.testBit_and, Nat.testBit_shiftLeft, Nat.testBit_shiftRight]
    by_cases hi : 1 ≤ i
    · simp only [ge_iff_le, hi, decide_true, Bool.true_and, Nat.add_sub_cancel' hi]
    · simp [hi]
  rw [← BitVec.toNat_inj, e, ← BitVec.toNat_inj, ← BitVec.toNat_inj, ← BitVec.toNat_inj, fieldA_toNat, fieldB_toNat]
  simp only [BitVec.toNat_ofNat, Nat.zero_mod, Nat.reducePow, Nat.one_mod]
  omega

end Sys2Proof
end

