-- ==== Sys2Proof/Laws/Matcher.lean ====
section
/-! SUPPORT. The matcher's pieces, one lemma for each case of 42_response_matcher.md R140. -/

namespace Sys2Proof.Machine

variable (n : Byte) (fin : MatchOutcome → State → State) (s : State)

theorem matchLoop_spent (h : s.polls = n) : matchLoop n fin s = fin .unmatched s := if_pos h

theorem matchLoop_left (h : s.polls ≠ n) : matchLoop n fin s = s.setStep .poll := if_neg h

theorem matchStart_none : matchStart 0 fin s = fin .unmatched { s with polls := 0, log := [] } :=
  matchLoop_spent 0 fin ((s.setPolls 0).setLog []) rfl

theorem matchStart_some (h : n ≠ 0) : matchStart n fin s = { s with polls := 0, log := [], stepAt := .poll } :=
  matchLoop_left n fin ((s.setPolls 0).setLog []) (Ne.symm h)

theorem matchWait_spent (d : Half) (h : s.polls = n) :
    matchWait n d fin s = fin .unmatched { s with trace := s.trace ++ [.delay d] } :=
  matchLoop_spent n fin (delayFor d s) h

theorem matchWait_left (d : Half) (h : s.polls ≠ n) :
    matchWait n d fin s = { s with trace := s.trace ++ [.delay d], stepAt := .poll } :=
  matchLoop_left n fin (delayFor d s) h

variable (pattern : List Byte)

theorem afterRead_readError :
    afterRead pattern fin .readError s = fin .transportFailure { s with polls := s.polls + 1 } := rfl

theorem afterRead_empty :
    afterRead pattern fin .empty s = { s with polls := s.polls + 1, stepAt := .wait } := rfl

theorem afterRead_match {xs : List Byte} (h : chunkMatches s.cfg.matchAlign xs pattern = true) :
    afterRead pattern fin (.bytes xs) s = fin .matched { s with polls := s.polls + 1, log := s.log ++ xs } := if_pos h

theorem afterRead_miss {xs : List Byte} (h : chunkMatches s.cfg.matchAlign xs pattern = false) :
    afterRead pattern fin (.bytes xs) s = { s with polls := s.polls + 1, log := s.log ++ xs, stepAt := .wait } :=
  if_neg (by simp [h])

end Sys2Proof.Machine
end

