-- ==== Sys2Proof/Laws/PerInstr.lean ====
section
/-! SUPPORT. For every instruction: its encoding has the fixed bits that its row of spec/opcode_table.json gives. -/

-- One theorem after another: many small ones at once would ask for many threads.
set_option Elab.async false

namespace Sys2Proof.Laws

open Sys2Proof

/-- The fixed bit fields of the instruction's row, as (hi, lo, value): the table's "fixed" entries; for the four
40-bit frame rows, which have none, the field that their "match" and "mask" fix. -/
def tableFixed : Instr → List (Nat × Nat × Nat)
  | .convAngle _ => [(31, 16, 4096)]
  | .convSpeed _ => [(31, 16, 8192)]
  | .split16 _ => [(31, 16, 12288)]
  | .idByte _ => [(15, 0, 0), (31, 24, 64)]
  | .encSetspeed _ _ => [(31, 24, 80)]
  | .encMoveto _ _ => [(31, 24, 96)]
  | .encActiongroup => [(31, 0, 1879048192)]
  | .encStoprecover _ => [(31, 1, 1073741824)]
  | .encStatusquery => [(31, 0, 2415919104)]
  | .matchResponse _ _ => [(31, 24, 160)]
  | .probe => [(31, 0, 2952790016)]
  | .moveServo _ _ _ => [(31, 24, 192)]
  | .emergencyStop => [(31, 0, 3489660928)]
  | .recover => [(31, 0, 3758096384)]
  | .startActionGroup => [(31, 0, 4026531840)]
  | .frameSetspeed _ _ => [(39, 20, 1044496)]
  | .frameMoveto _ _ => [(39, 20, 1044512)]
  | .frameStoprecover => [(39, 0, 1095401210112)]
  | .frameStatusquery => [(39, 0, 1095217840128)]
  | .frameActiongroup _ => [(15, 0, 65289)]
  | .patternStatusAnswer => [(31, 0, 4027711488)]

/-- The number that a list of bytes is, the first byte the most significant, as the table writes a frame. -/
def numberOfBytes (bytes : List Byte) : Nat := bytes.foldl (fun n b => n * 256 + b.toNat) 0

/-- The bits of the instruction that its row covers: all of them, but only the first two bytes of FRAME_ACTIONGROUP. -/
def rowNumber (i : Instr) : Nat :=
  match encode i with
  | .request w => w.toNat
  | .pattern bytes => numberOfBytes bytes
  | .frame bytes =>
    match i with
    | .frameActiongroup _ => numberOfBytes (bytes.take 2)
    | _ => numberOfBytes bytes

/-- The encoding has the row's fixed bits. -/
def EncodingFitsRow.Statement (i : Instr) : Prop :=
  i.wf = true → ∀ f ∈ tableFixed i, rowNumber i / 2 ^ f.2.1 % 2 ^ (f.1 - f.2.1 + 1) = f.2.2

theorem EncodingFitsRow.convAngle (angle : Half) : EncodingFitsRow.Statement (.convAngle angle) := by
  intro _ f hf
  have h0 := angle.isLt
  simp only [tableFixed, List.mem_singleton] at hf
  subst hf
  simp only [rowNumber, encode, encodeRequest, requestWord_toNat, BitVec.ofNat_eq_ofNat, BitVec.toNat_ofNat]
  omega

theorem EncodingFitsRow.convSpeed (speed : Half) : EncodingFitsRow.Statement (.convSpeed speed) := by
  intro _ f hf
  have h0 := speed.isLt
  simp only [tableFixed, List.mem_singleton] at hf
  subst hf
  simp only [rowNumber, encode, encodeRequest, requestWord_toNat, BitVec.ofNat_eq_ofNat, BitVec.toNat_ofNat]
  omega

theorem EncodingFitsRow.split16 (value : Half) : EncodingFitsRow.Statement (.split16 value) := by
  intro _ f hf
  have h0 := value.isLt
  simp only [tableFixed, List.mem_singleton] at hf
  subst hf
  simp only [rowNumber, encode, encodeRequest, requestWord_toNat, BitVec.ofNat_eq_ofNat, BitVec.toNat_ofNat]
  omega

theorem EncodingFitsRow.idByte (id : Byte) : EncodingFitsRow.Statement (.idByte id) := by
  intro _ f hf
  have h := id.isLt
  simp only [tableFixed, List.mem_cons, List.not_mem_nil, or_false] at hf
  rcases hf with rfl | rfl <;>
    simp only [rowNumber, encode, encodeRequest, requestWord_toNat, BitVec.ofNat_eq_ofNat, BitVec.toNat_ofNat] <;> omega

theorem EncodingFitsRow.encSetspeed (id : Byte) (units : Half) : EncodingFitsRow.Statement (.encSetspeed id units) := by
  intro _ f hf
  have h0 := id.isLt
  have h1 := units.isLt
  simp only [tableFixed, List.mem_singleton] at hf
  subst hf
  simp only [rowNumber, encode, encodeRequest, requestWord_toNat, BitVec.ofNat_eq_ofNat, BitVec.toNat_ofNat]
  omega

theorem EncodingFitsRow.encMoveto (id : Byte) (pw : Half) : EncodingFitsRow.Statement (.encMoveto id pw) := by
  intro _ f hf
  have h0 := id.isLt
  have h1 := pw.isLt
  simp only [tableFixed, List.mem_singleton] at hf
  subst hf
  simp only [rowNumber, encode, encodeRequest, requestWord_toNat, BitVec.ofNat_eq_ofNat, BitVec.toNat_ofNat]
  omega

theorem EncodingFitsRow.encActiongroup : EncodingFitsRow.Statement (.encActiongroup) := by
  intro _ f hf
  revert f hf
  decide

theorem EncodingFitsRow.encStoprecover (mode : StopMode) : EncodingFitsRow.Statement (.encStoprecover mode) := by
  intro _ f hf
  revert f hf
  cases mode <;> decide

theorem EncodingFitsRow.encStatusquery : EncodingFitsRow.Statement (.encStatusquery) := by
  intro _ f hf
  revert f hf
  decide

theorem EncodingFitsRow.matchResponse (n : Byte) (d : Half) : EncodingFitsRow.Statement (.matchResponse n d) := by
  intro _ f hf
  have h0 := n.isLt
  have h1 := d.isLt
  simp only [tableFixed, List.mem_singleton] at hf
  subst hf
  simp only [rowNumber, encode, encodeRequest, requestWord_toNat, BitVec.ofNat_eq_ofNat, BitVec.toNat_ofNat]
  omega

theorem EncodingFitsRow.probe : EncodingFitsRow.Statement (.probe) := by
  intro _ f hf
  revert f hf
  decide

theorem EncodingFitsRow.moveServo (id : Byte) (angle : Byte) (speed : Byte) : EncodingFitsRow.Statement (.moveServo id angle speed) := by
  intro _ f hf
  have h1 := id.isLt
  have h2 := (Machine.combine angle speed).isLt
  simp only [tableFixed, List.mem_singleton] at hf
  subst hf
  simp only [rowNumber, encode, encodeRequest, requestWord_toNat, BitVec.ofNat_eq_ofNat, BitVec.toNat_ofNat]
  omega

theorem EncodingFitsRow.emergencyStop : EncodingFitsRow.Statement (.emergencyStop) := by
  intro _ f hf
  revert f hf
  decide

theorem EncodingFitsRow.recover : EncodingFitsRow.Statement (.recover) := by
  intro _ f hf
  revert f hf
  decide

theorem EncodingFitsRow.startActionGroup : EncodingFitsRow.Statement (.startActionGroup) := by
  intro _ f hf
  revert f hf
  decide

theorem EncodingFitsRow.frameSetspeed (id : Byte) (units : Half) : EncodingFitsRow.Statement (.frameSetspeed id units) := by
  intro hwf f hf
  have h := (id.isLt)
  simp only [Instr.wf, frameIdWf, decide_eq_true_eq] at hwf
  simp only [tableFixed, List.mem_singleton] at hf
  subst hf
  have h1 := (Machine.low units).isLt
  have h2 := (Machine.high units).isLt
  simp only [rowNumber, encode, encodeRequest, encodeFrame, Machine.setspeedBytes, Config.standard, Config.withOpen,
    Machine.idByteOf, numberOfBytes, List.foldl_cons, List.foldl_nil, BitVec.ofNat_eq_ofNat, BitVec.toNat_ofNat]
  omega

theorem EncodingFitsRow.frameMoveto (id : Byte) (pw : Half) : EncodingFitsRow.Statement (.frameMoveto id pw) := by
  intro hwf f hf
  have h := (id.isLt)
  simp only [Instr.wf, frameIdWf, decide_eq_true_eq] at hwf
  simp only [tableFixed, List.mem_singleton] at hf
  subst hf
  have h1 := (Machine.low pw).isLt
  have h2 := (Machine.high pw).isLt
  simp only [rowNumber, encode, encodeRequest, encodeFrame, Machine.movetoBytes, Config.standard, Config.withOpen,
    Machine.idByteOf, numberOfBytes, List.foldl_cons, List.foldl_nil, BitVec.ofNat_eq_ofNat, BitVec.toNat_ofNat]
  omega

theorem EncodingFitsRow.frameStoprecover : EncodingFitsRow.Statement (.frameStoprecover) := by
  intro _ f hf
  revert f hf
  decide

theorem EncodingFitsRow.frameStatusquery : EncodingFitsRow.Statement (.frameStatusquery) := by
  intro _ f hf
  revert f hf
  decide

theorem EncodingFitsRow.frameActiongroup (payload : List Byte) : EncodingFitsRow.Statement (.frameActiongroup payload) := by
  intro _ f hf
  simp only [tableFixed, List.mem_singleton] at hf
  subst hf
  have e : rowNumber (.frameActiongroup payload) = 65289 := by
    simp only [rowNumber, encode, encodeRequest, encodeFrame, Machine.actiongroupBytesOf, List.cons_append,
      List.nil_append, List.take_succ_cons, List.take_zero]
    rfl
  rw [e]; rfl

theorem EncodingFitsRow.patternStatusAnswer : EncodingFitsRow.Statement (.patternStatusAnswer) := by
  intro _ f hf
  revert f hf
  decide

end Sys2Proof.Laws
end

