-- ==== Sys2Proof/Laws/Step.lean ====
section
/-! SUPPORT. What a step can do: by phase, what no meaning writes, and what one records. -/

namespace Sys2Proof.Machine

/-! ## A step, by phase -/

theorem step_low {s : State} (hc : configWf s.cfg = true) (hr : s.rstNow = .low) : step s = stepPhase s.tick := by
  simp only [step, hc, hr, if_true]

theorem step_high {s : State} {k b} (hc : configWf s.cfg = true) (hr : s.rstNow = .high k b) :
    step s = .next (resetBlock s.tick k b) := by
  simp only [step, hc, hr, if_true]

theorem step_ill {s : State} (hc : configWf s.cfg = false) : step s = .refused .illFormedConfig := by
  simp [step, hc]

theorem stepPhase_busy {s : State} (h : s.phase = .busy) : stepPhase s = stepBusy s := by
  simp only [stepPhase, h]

theorem stepPhase_idle {s : State} (h : s.phase = .idle) : stepPhase s = .next (accept s) := by
  simp only [stepPhase, h]

theorem stepPhase_done {s : State} (h : s.phase = .done) : stepPhase s = .next (deliver s) := by
  simp only [stepPhase, h]

/-- All that a step which answers a next state can have done. -/
theorem step_cases {s t : State} (h : step s = .next t) : configWf s.cfg = true ∧
    ((∃ k b, s.rstNow = .high k b ∧ t = resetBlock s.tick k b) ∨
    (s.rstNow = .low ∧ s.phase = .idle ∧ t = accept s.tick) ∨
    (s.rstNow = .low ∧ s.phase = .busy ∧ stepBusy s.tick = .next t) ∨
    (s.rstNow = .low ∧ s.phase = .done ∧ t = deliver s.tick)) := by
  cases hc : configWf s.cfg with
  | false => rw [step_ill hc] at h; cases h
  | true =>
    refine ⟨rfl, ?_⟩
    cases hr : s.rstNow with
    | high k b => rw [step_high hc hr] at h; cases h; exact .inl ⟨k, b, rfl, rfl⟩
    | low =>
      rw [step_low hc hr] at h
      cases hp : s.phase with
      | idle => rw [stepPhase_idle (s := s.tick) hp] at h; cases h; exact .inr (.inl ⟨rfl, rfl, rfl⟩)
      | busy => rw [stepPhase_busy (s := s.tick) hp] at h; exact .inr (.inr (.inl ⟨rfl, rfl, h⟩))
      | done => rw [stepPhase_done (s := s.tick) hp] at h; cases h; exact .inr (.inr (.inr ⟨rfl, rfl, rfl⟩))

/-- What a step in DONE can do. -/
theorem deliver_cases (s : State) :
    (s.nextReady = .high ∧ deliver s = { s.dropReady with trace := s.trace ++ [.result s.res], phase := .idle }) ∨
    (s.nextReady = .low ∧ deliver s = s.dropReady) ∨ (s.nextReady = .never ∧ deliver s = s) := by
  cases h : s.nextReady
  · exact .inr (.inl ⟨rfl, by simp only [deliver, h]⟩)
  · exact .inl ⟨rfl, by simp [deliver, h, State.record, State.setPhase]⟩
  · exact .inr (.inr ⟨rfl, by simp only [deliver, h]⟩)

/-- What a step in DONE leaves as it is. -/
theorem deliver_keeps (s : State) :
    (deliver s).cfg = s.cfg ∧ (deliver s).req = s.req ∧ (deliver s).stepAt = s.stepAt ∧ (deliver s).frame = s.frame ∧
      (deliver s).polls = s.polls ∧ (deliver s).log = s.log ∧ (deliver s).wfail = s.wfail ∧ (deliver s).res = s.res ∧
      (deliver s).rstIn = s.rstIn ∧ (deliver s).reqIn = s.reqIn ∧ (deliver s).txIn = s.txIn ∧
      (deliver s).rxIn = s.rxIn ∧ (deliver s).line = s.line := by
  rcases deliver_cases s with ⟨-, e⟩ | ⟨-, e⟩ | ⟨-, e⟩ <;> simp [e]

/-- With no reset coming, sampling the reset input changes nothing. -/
theorem tick_nil {s : State} (h : s.rstIn = []) : s.tick = s := by
  cases s; simp only [State.tick] at *; subst h; rfl

/-- A step on a result that the caller never takes. -/
theorem step_untaken {s : State} (hc : configWf s.cfg = true) (hr : s.rstIn = []) (hp : s.phase = .done)
    (h : s.nextReady = .never) : step s = .next s := by
  have ht := tick_nil hr
  rw [step_low hc (by simp only [State.rstNow, hr]), ht, stepPhase_done hp]
  simp only [deliver, h]

/-- A request in BUSY is decoded to a request, never to a wire row. -/
theorem decodeRequest_request {w : ReqWord} {i : Instr} (h : decodeRequest w = .ok i) : encodeRequest i ≠ none := by
  simp only [decodeRequest] at h
  split at h
  · cases h
  rename_i j hj
  split at h
  · cases h
  split at h
  · cases h
  cases h
  unfold operation at hj
  split at hj <;> cases hj <;> simp [encodeRequest]

/-- A step in BUSY on a legal request runs the row that is due, or the request. -/
theorem stepBusy_ok {s : State} {i : Instr} (h : decodeRequest s.req = .ok i) :
    stepBusy s = exec ((wireInstr s).getD i) s := by
  simp only [stepBusy, fetched, h]

theorem stepBusy_illegal {s : State} {info : Byte} (h : decodeRequest s.req = .illegal info) :
    stepBusy s = .next (raise .illegalRequest info s) := by
  simp only [stepBusy, fetched, h]

/-! ## Runs -/

theorem runSteps_succ {k : Nat} {s t : State} (h : step s = .next t) : runSteps (k + 1) s = runSteps k t := by
  simp only [runSteps, h]

theorem runSteps_add {j : Nat} {s t : State} (k : Nat) (h : runSteps j s = .next t) :
    runSteps (j + k) s = runSteps k t := by
  induction j generalizing s with
  | zero => cases h; simp
  | succ j ih =>
    rw [Nat.succ_add]
    simp only [runSteps] at h ⊢
    cases e : step s with
    | next u => rw [e] at h; exact ih h
    | fault r => rw [e] at h; cases h
    | refused r => rw [e] at h; cases h

/-! ## The wire rows -/

/-- A frame's meaning, by the frame's bytes. -/
theorem exec_frame {s : State} {f : Instr} {bs : List Byte} (h : encodeFrame s.cfg f = some bs) :
    exec f s = writeDue bs s := by
  cases f <;> simp only [encodeFrame, Option.some.injEq, reduceCtorEq] at h <;> subst h <;> rfl

/-- At a line that writes, what runs is the request's own meaning. -/
theorem runningWrite_eq {s : State} {i : Instr} (hw : s.stepAt.writes = true) (hd : decodeRequest s.req = .ok i)
    (ha : AtLine s i) : runningWrite s = exec i s := by
  cases i <;> simp only [AtLine] at ha <;> try (simp only [runningWrite, sessionWrite, hd]; done)
  case probe => simp only [runningWrite, sessionWrite, hd, exec]
  case moveServo => simp only [runningWrite, sessionWrite, hd, exec]
  case emergencyStop => simp only [runningWrite, sessionWrite, hd, exec]
  case recover => simp only [runningWrite, sessionWrite, hd, exec]
  case startActionGroup => simp only [runningWrite, sessionWrite, hd, exec]
  case matchResponse n d =>
    rcases ha.1 with ⟨h, -⟩ | ⟨h, -⟩ <;> rw [h] at hw <;> cases hw

/-- The status answer's row is the meaning of the request that reads for it. -/
theorem exec_pattern {s : State} {i : Instr} (hb : s.phase = .busy) (hp : s.stepAt = .poll)
    (hc : s.cfg.statusAnswer = answerBytes) (hd : decodeRequest s.req = .ok i) (ha : AtLine s i) :
    exec .patternStatusAnswer s = exec i s := by
  have e : exec .patternStatusAnswer s = runningPoll s := if_pos ⟨hb, hp, hc⟩
  rw [e]
  cases i <;> simp only [AtLine, hp, reduceCtorEq, false_and, and_false, or_self] at ha
  case probe => simp only [runningPoll, matcherPoll, hd, exec]
  case matchResponse => simp only [runningPoll, matcherPoll, hd, exec]

/-! ## What no meaning writes, and what one records -/

/-- From `s` to `t` the events `es` were recorded, and what no meaning writes is as it was. -/
structure Moves (s t : State) (es : List Event) : Prop where
  cfg : t.cfg = s.cfg
  req : t.req = s.req
  rstIn : t.rstIn = s.rstIn
  reqIn : t.reqIn = s.reqIn
  resReadyIn : t.resReadyIn = s.resReadyIn
  readyDraws : t.readyDraws = s.readyDraws
  trace : t.trace = s.trace ++ es

theorem same_append_nil (es : List Event) : es = es ++ [] := (List.append_nil es).symm

theorem Moves.refl (s : State) : Moves s s [] := ⟨rfl, rfl, rfl, rfl, rfl, rfl, same_append_nil _⟩

theorem Moves.trans {s t u : State} {es fs : List Event} (h : Moves s t es) (g : Moves t u fs) :
    Moves s u (es ++ fs) :=
  ⟨g.cfg.trans h.cfg, g.req.trans h.req, g.rstIn.trans h.rstIn, g.reqIn.trans h.reqIn,
    g.resReadyIn.trans h.resReadyIn, g.readyDraws.trans h.readyDraws,
    by rw [g.trace, h.trace, List.append_assoc]⟩

theorem finish_moves (r : Result) (s : State) : Moves s (finish r s) [] :=
  ⟨rfl, rfl, rfl, rfl, rfl, rfl, same_append_nil _⟩

theorem raise_moves (st : Status) (info : Byte) (s : State) : Moves s (raise st info s) [] :=
  ⟨rfl, rfl, rfl, rfl, rfl, rfl, same_append_nil _⟩

theorem validated_moves (cs : List (Bool × Byte)) {s : State} {go : State → State}
    (h : Moves s (go s) []) : Moves s (validated cs s go) [] := by
  unfold validated
  split
  · exact raise_moves _ _ _
  · exact h

theorem txWrite_moves (s : State) (resume : Bool → State → State) (h : ∀ ok t, Moves t (resume ok t) []) :
    ∃ es, Moves s (txWrite s resume) es ∧ (es = [] ∨ ∃ ok, es = [.tx s.frame ok]) := by
  have d : ∀ bs e, Moves s ((s.dropTx.putLine bs).record e) [e] := by
    intro bs e
    unfold State.dropTx
    split <;> exact ⟨rfl, rfl, rfl, rfl, rfl, rfl, rfl⟩
  rcases txWrite_cases s resume with ⟨-, e⟩ | ⟨k, -, e⟩ | ⟨-, e⟩ <;> rw [e]
  · exact ⟨_, (d _ _).trans (h _ _), .inr ⟨_, rfl⟩⟩
  · exact ⟨_, (d _ _).trans (h _ _), .inr ⟨_, rfl⟩⟩
  · exact ⟨_, .refl s, .inl rfl⟩

theorem rxRead_moves (s : State) (resume : Chunk → State → State) (h : ∀ c t, Moves t (resume c t) []) :
    ∃ es, Moves s (rxRead s resume) es ∧ (es = [] ∨ ∃ c, es = [.rx c]) := by
  have d : ∀ e, Moves s (s.dropRx.record e) [e] := by
    intro e
    unfold State.dropRx
    split <;> exact ⟨rfl, rfl, rfl, rfl, rfl, rfl, rfl⟩
  rcases rxRead_cases s resume with ⟨c, -, e⟩ | ⟨-, e⟩ <;> rw [e]
  · exact ⟨_, (d _).trans (h _ _), .inr ⟨_, rfl⟩⟩
  · exact ⟨_, .refl s, .inl rfl⟩

section
variable {fin : MatchOutcome → State → State} (hf : ∀ o t, Moves t (fin o t) [])
include hf

theorem matchLoop_moves (n : Byte) (s : State) : Moves s (matchLoop n fin s) [] := by
  unfold matchLoop
  split
  · exact hf _ _
  · exact ⟨rfl, rfl, rfl, rfl, rfl, rfl, same_append_nil _⟩

theorem matchStart_moves (n : Byte) (s : State) : Moves s (matchStart n fin s) [] :=
  Moves.trans (s := s) (t := (s.setPolls 0).setLog []) ⟨rfl, rfl, rfl, rfl, rfl, rfl, same_append_nil _⟩ (matchLoop_moves hf n _)

theorem afterRead_moves (p : List Byte) (c : Chunk) (s : State) : Moves s (afterRead p fin c s) [] := by
  have k : ∀ xs, Moves s ((s.setPolls (s.polls + 1)).setLog (s.log ++ xs)) [] := fun xs =>
    ⟨rfl, rfl, rfl, rfl, rfl, rfl, same_append_nil _⟩
  cases c with
  | readError =>
    exact Moves.trans (s := s) (t := s.setPolls (s.polls + 1)) ⟨rfl, rfl, rfl, rfl, rfl, rfl, same_append_nil _⟩ (hf _ _)
  | empty => exact ⟨rfl, rfl, rfl, rfl, rfl, rfl, same_append_nil _⟩
  | bytes xs =>
    cases hm : chunkMatches s.cfg.matchAlign xs p
    · rw [afterRead_miss _ _ _ hm]
      exact ⟨rfl, rfl, rfl, rfl, rfl, rfl, same_append_nil _⟩
    · rw [afterRead_match _ _ _ hm]
      exact (k xs).trans (hf _ _)

theorem matchPoll_moves (p : List Byte) (s : State) :
    ∃ es, Moves s (matchPoll p fin s) es ∧ (es = [] ∨ ∃ c, es = [.rx c]) :=
  rxRead_moves s _ fun _ _ => afterRead_moves hf _ _ _

theorem matchWait_moves (n : Byte) (d : Half) (s : State) : Moves s (matchWait n d fin s) [.delay d] :=
  (⟨rfl, rfl, rfl, rfl, rfl, rfl, rfl⟩ : Moves s (delayFor d s) [.delay d]).trans (matchLoop_moves hf n _)

end

/-- What one step of a meaning may record: nothing, a write of FRAME
at a line that writes, if it may write, a read or a delay if it may read. -/
def Records (s : State) (writes reads : Prop) (es : List Event) : Prop :=
  es = [] ∨ (writes ∧ s.stepAt.writes = true ∧ ∃ ok, es = [.tx s.frame ok]) ∨ (reads ∧ ((∃ c, es = [.rx c]) ∨ ∃ d, es = [.delay d]))

theorem next_inj {s t : State} (h : (Host.Outcome.next s : Out) = .next t) : s = t := by cases h; rfl

theorem execMatchResponse_moves {n d} {s t : State} (h : execMatchResponse n d s = .next t) :
    ∃ es, Moves s t es ∧ Records s False True es := by
  have hf : ∀ o t, Moves t (matchReturn o t) [] := fun o t => finish_moves _ _
  simp only [execMatchResponse] at h
  split at h <;> first | cases h; done | replace h := next_inj h; subst h
  · exact ⟨_, matchStart_moves hf _ _, .inl rfl⟩
  · obtain ⟨es, m, r⟩ := matchPoll_moves hf s.cfg.statusAnswer s
    exact ⟨es, m, r.imp_right fun r => .inr ⟨trivial, .inl r⟩⟩
  · exact ⟨_, matchWait_moves hf _ _ _, .inr (.inr ⟨trivial, .inr ⟨_, rfl⟩⟩)⟩

theorem execProbe_moves {s t : State} (h : execProbe s = .next t) :
    ∃ es, Moves s t es ∧ Records s True True es := by
  have hf : ∀ o t, Moves t (probeReturn o t) [] := fun o t => finish_moves _ _
  simp only [execProbe] at h
  split at h <;> first | cases h; done | replace h := next_inj h; subst h
  · exact ⟨[], ⟨rfl, rfl, rfl, rfl, rfl, rfl, same_append_nil _⟩, .inl rfl⟩
  · obtain ⟨es, m, r⟩ := txWrite_moves s afterQuery fun ok t => by
      unfold afterQuery
      split
      · exact matchStart_moves hf _ _
      · exact finish_moves _ _
    exact ⟨es, m, r.imp_right fun r => .inl ⟨trivial, by rw [‹s.stepAt = _›]; rfl, r⟩⟩
  · obtain ⟨es, m, r⟩ := matchPoll_moves hf s.cfg.statusAnswer s
    exact ⟨es, m, r.imp_right fun r => .inr ⟨trivial, .inl r⟩⟩
  · exact ⟨_, matchWait_moves hf _ _ _, .inr (.inr ⟨trivial, .inr ⟨_, rfl⟩⟩)⟩

theorem fireAndForget_moves {f} {s t : State} (h : fireAndForget f s = .next t) :
    ∃ es, Moves s t es ∧ Records s True False es := by
  simp only [fireAndForget] at h
  split at h <;> first | cases h; done | replace h := next_inj h; subst h
  · exact ⟨[], ⟨rfl, rfl, rfl, rfl, rfl, rfl, same_append_nil _⟩, .inl rfl⟩
  · obtain ⟨es, m, r⟩ := txWrite_moves s afterOnly fun ok t => by
      unfold afterOnly
      split
      · exact finish_moves _ _
      · exact raise_moves _ _ _
    exact ⟨es, m, r.imp_right fun r => .inl ⟨trivial, by rw [‹s.stepAt = _›]; rfl, r⟩⟩

theorem execMoveServo_moves {id a v} {s t : State} (h : execMoveServo id a v s = .next t) :
    ∃ es, Moves s t es ∧ Records s True False es := by
  simp only [execMoveServo] at h
  split at h <;> first | cases h; done | replace h := next_inj h; subst h
  · exact ⟨[], validated_moves _ ⟨rfl, rfl, rfl, rfl, rfl, rfl, same_append_nil _⟩, .inl rfl⟩
  · obtain ⟨es, m, r⟩ := txWrite_moves s (afterSpeed id a) fun ok t => by
      unfold afterSpeed
      split
      · exact ⟨rfl, rfl, rfl, rfl, rfl, rfl, same_append_nil _⟩
      · split
        · exact ⟨rfl, rfl, rfl, rfl, rfl, rfl, same_append_nil _⟩
        · exact raise_moves _ _ _
    exact ⟨es, m, r.imp_right fun r => .inl ⟨trivial, by rw [‹s.stepAt = _›]; rfl, r⟩⟩
  · obtain ⟨es, m, r⟩ := txWrite_moves s (afterMove (pulseOf s.cfg a.toNat)) fun ok t => by
      unfold afterMove
      split
      · exact raise_moves _ _ _
      split
      · exact raise_moves _ _ _
      split
      · exact raise_moves _ _ _
      · exact finish_moves _ _
    exact ⟨es, m, r.imp_right fun r => .inl ⟨trivial, by rw [‹s.stepAt = _›]; rfl, r⟩⟩

/-- The request in REQ is one that writes (41_frame_encoder.md R126); `Reads`, one that
reads (42_response_matcher.md R147). -/
def Transmits (s : State) : Prop :=
  decodeRequest s.req = .ok .probe ∨ (∃ id angle speed, decodeRequest s.req = .ok (.moveServo id angle speed)) ∨
    decodeRequest s.req = .ok .emergencyStop ∨ decodeRequest s.req = .ok .recover ∨
    decodeRequest s.req = .ok .startActionGroup

/-- See `Transmits`. -/
def Reads (s : State) : Prop :=
  decodeRequest s.req = .ok .probe ∨ ∃ n d, decodeRequest s.req = .ok (.matchResponse n d)

theorem Records.imp {s : State} {p q p' q' : Prop} {es} (h : Records s p q es) (hp : p → p') (hq : q → q') :
    Records s p' q' es :=
  Or.imp_right (Or.imp (fun a => ⟨hp a.1, a.2⟩) (fun a => ⟨hq a.1, a.2⟩)) h

theorem runningWrite_moves {s t : State} (h : runningWrite s = .next t) :
    ∃ es, Moves s t es ∧ Records s (Transmits s) (Reads s) es := by
  cases hd : decodeRequest s.req with
  | illegal x => simp only [runningWrite, hd, reduceCtorEq] at h
  | ok i =>
    simp only [runningWrite, hd] at h
    cases i <;> simp only [sessionWrite, reduceCtorEq] at h
    case probe =>
      obtain ⟨es, m, r⟩ := execProbe_moves h
      exact ⟨es, m, r.imp (fun _ => .inl hd) (fun _ => .inl hd)⟩
    case moveServo =>
      obtain ⟨es, m, r⟩ := execMoveServo_moves h
      exact ⟨es, m, r.imp (fun _ => .inr (.inl ⟨_, _, _, hd⟩)) False.elim⟩
    case emergencyStop =>
      obtain ⟨es, m, r⟩ := fireAndForget_moves h
      exact ⟨es, m, r.imp (fun _ => .inr (.inr (.inl hd))) False.elim⟩
    case recover =>
      obtain ⟨es, m, r⟩ := fireAndForget_moves h
      exact ⟨es, m, r.imp (fun _ => .inr (.inr (.inr (.inl hd)))) False.elim⟩
    case startActionGroup =>
      obtain ⟨es, m, r⟩ := fireAndForget_moves h
      exact ⟨es, m, r.imp (fun _ => .inr (.inr (.inr (.inr hd)))) False.elim⟩

theorem runningPoll_moves {s t : State} (h : runningPoll s = .next t) :
    ∃ es, Moves s t es ∧ Records s (Transmits s) (Reads s) es := by
  cases hd : decodeRequest s.req with
  | illegal x => simp only [runningPoll, hd, reduceCtorEq] at h
  | ok i =>
    simp only [runningPoll, hd] at h
    cases i <;> simp only [matcherPoll, reduceCtorEq] at h
    case probe =>
      obtain ⟨es, m, r⟩ := execProbe_moves h
      exact ⟨es, m, r.imp (fun _ => .inl hd) (fun _ => .inl hd)⟩
    case matchResponse =>
      obtain ⟨es, m, r⟩ := execMatchResponse_moves h
      exact ⟨es, m, r.imp False.elim (fun _ => .inr ⟨_, _, hd⟩)⟩

theorem writeDue_moves {f} {s t : State} (h : writeDue f s = .next t) :
    ∃ es, Moves s t es ∧ Records s (Transmits s) (Reads s) es := by
  unfold writeDue at h
  split at h
  · exact runningWrite_moves h
  · cases h

theorem decodeFrame_noRequest {c : Config} {bs : List Byte} {f : Instr} (h : decodeFrame c bs = some f) :
    encodeRequest f = none := by
  simp only [decodeFrame] at h
  split at h
  · cases h; rfl
  split at h
  · split at h
    · unfold decodePayload at h
      repeat' split at h
      all_goals cases h
      all_goals rfl
    · cases h
  · cases h

theorem wireInstr_noRequest {s : State} {f : Instr} (h : wireInstr s = some f) : encodeRequest f = none := by
  unfold wireInstr at h
  split at h
  any_goals exact decodeFrame_noRequest h
  any_goals cases h
  split at h <;> cases h
  rfl

/-- A meaning's step, the request in REQ being the one that runs. -/
theorem exec_moves {i} {s t : State} (h : exec i s = .next t)
    (hd : ∀ w, encodeRequest i = some w → decodeRequest s.req = .ok i) :
    ∃ es, Moves s t es ∧ Records s (Transmits s) (Reads s) es := by
  cases i
  case convAngle a => cases h; exact ⟨[], validated_moves _ (finish_moves _ _), .inl rfl⟩
  case convSpeed a => cases h; exact ⟨[], validated_moves _ (finish_moves _ _), .inl rfl⟩
  case split16 a => cases h; exact ⟨[], finish_moves _ _, .inl rfl⟩
  case idByte a => cases h; exact ⟨[], validated_moves _ (finish_moves _ _), .inl rfl⟩
  case encSetspeed =>
    cases h
    exact ⟨[], validated_moves _ ⟨rfl, rfl, rfl, rfl, rfl, rfl, same_append_nil _⟩, .inl rfl⟩
  case encMoveto =>
    cases h
    exact ⟨[], validated_moves _ ⟨rfl, rfl, rfl, rfl, rfl, rfl, same_append_nil _⟩, .inl rfl⟩
  case encActiongroup => cases h; exact ⟨[], ⟨rfl, rfl, rfl, rfl, rfl, rfl, same_append_nil _⟩, .inl rfl⟩
  case encStoprecover => cases h; exact ⟨[], ⟨rfl, rfl, rfl, rfl, rfl, rfl, same_append_nil _⟩, .inl rfl⟩
  case encStatusquery => cases h; exact ⟨[], ⟨rfl, rfl, rfl, rfl, rfl, rfl, same_append_nil _⟩, .inl rfl⟩
  case matchResponse n d =>
    obtain ⟨es, m, r⟩ := execMatchResponse_moves h
    exact ⟨es, m, r.imp False.elim (fun _ => .inr ⟨_, _, hd _ rfl⟩)⟩
  case probe =>
    obtain ⟨es, m, r⟩ := execProbe_moves h
    exact ⟨es, m, r.imp (fun _ => .inl (hd _ rfl)) (fun _ => .inl (hd _ rfl))⟩
  case moveServo =>
    obtain ⟨es, m, r⟩ := execMoveServo_moves h
    exact ⟨es, m, r.imp (fun _ => .inr (.inl ⟨_, _, _, hd _ rfl⟩)) False.elim⟩
  case emergencyStop =>
    obtain ⟨es, m, r⟩ := fireAndForget_moves h
    exact ⟨es, m, r.imp (fun _ => .inr (.inr (.inl (hd _ rfl)))) False.elim⟩
  case recover =>
    obtain ⟨es, m, r⟩ := fireAndForget_moves h
    exact ⟨es, m, r.imp (fun _ => .inr (.inr (.inr (.inl (hd _ rfl))))) False.elim⟩
  case startActionGroup =>
    obtain ⟨es, m, r⟩ := fireAndForget_moves h
    exact ⟨es, m, r.imp (fun _ => .inr (.inr (.inr (.inr (hd _ rfl))))) False.elim⟩
  case patternStatusAnswer =>
    simp only [exec, execPatternStatusAnswer] at h
    split at h
    · exact runningPoll_moves h
    · cases h
  all_goals exact writeDue_moves h

theorem stepBusy_moves {s t : State} (h : stepBusy s = .next t) :
    ∃ es, Moves s t es ∧ Records s (Transmits s) (Reads s) es := by
  cases hd : decodeRequest s.req with
  | illegal x =>
    simp only [stepBusy, fetched, hd] at h
    cases h
    exact ⟨[], raise_moves _ _ _, .inl rfl⟩
  | ok i =>
    have e : stepBusy s = exec ((wireInstr s).getD i) s := by simp only [stepBusy, fetched, hd]
    rw [e] at h
    cases hw : wireInstr s with
    | none =>
      rw [hw] at h
      exact exec_moves h fun _ _ => hd
    | some f =>
      rw [hw] at h
      exact exec_moves h fun w h' => by
        rw [show (some f).getD i = f from rfl, wireInstr_noRequest hw] at h'
        cases h'

end Sys2Proof.Machine
end

