-- ==== Sys2Proof/Tests/Slice0.lean ====
section
/-! SUPPORT. The model's own tests. Expected values are those of spec/95_test_vectors.md and of the rules named; each
test is one decode or one step. Then, for every statement with hypotheses, a witness that meets them together. -/

-- One theorem after another: many small ones at once would ask for many threads.
set_option Elab.async false

namespace Sys2Proof.Tests

open Sys2Proof Sys2Proof.Machine

/-! ## Helpers -/

/-- The values of 00_scope.md R7, the two OPEN ones chosen for the tests. -/
def cfg0 : Config := .withOpen (.two 0xAA 0xBB) 16

/-- Idle, with that configuration. -/
def s0 : State := { State.reset with cfg := cfg0 }

/-- Running the request `w`, at the line `p`. -/
def busy (w : ReqWord) (p : SeqStep) : State := { s0 with phase := .busy, req := w, stepAt := p }

/-- A field of the next state. -/
def after {α : Type} (f : State → α) : Out → Option α
  | .next t => some (f t)
  | .fault _ => none
  | .refused _ => none

/-- The status answer and the two frames of `MOVE_SERVO 5, 0, 90` (V-MOVE-1). -/
def answer : List Byte := [0xF0, 0x12, 0x00, 0x00]
def ss : List Byte := [0xFF, 0x01, 0x05, 0x0A, 0x00]
def mt : List Byte := [0xFF, 0x02, 0x05, 0x42, 0x02]
def sq : List Byte := [0xFF, 0x00, 0x12, 0x00, 0x00]
def sr : List Byte := [0xFF, 0x0B, 0x00, 0x01, 0x00]

/-- An answer that delivers the status answer. -/
def hit : RxAnswer := .bytes 0xF0 [0x12, 0x00, 0x00]

/-! ## Well-formedness: each check refuses an ill-formed term -/

theorem test_wf_refuses_setspeed_id : (Instr.frameSetspeed 16 10).wf = false := by decide
theorem test_wf_refuses_moveto_id : (Instr.frameMoveto 0xF0 578).wf = false := by decide
theorem test_wf_refuses_short_payload : (Instr.frameActiongroup [1]).wf = false := by decide
theorem test_wf_refuses_long_payload : (Instr.frameActiongroup [1, 2, 3, 4, 5]).wf = false := by decide

/-! The configuration check (00_scope.md R8, 10_state.md R21), one refusal for each condition. -/

theorem test_cfg_accepts_defaults : configWf cfg0 = true := by decide
theorem test_cfg_refuses_empty_answer : configWf { cfg0 with statusAnswer := [] } = false := by decide
theorem test_cfg_refuses_short_query : configWf { cfg0 with statusQuery := [0xFF, 0, 0x12, 0] } = false := by decide
theorem test_cfg_refuses_query_header : configWf { cfg0 with statusQuery := [0xFE, 0, 0x12, 0, 0] } = false := by decide
theorem test_cfg_refuses_stop_payload : configWf { cfg0 with stopPayload := [0, 1] } = false := by decide
theorem test_cfg_refuses_chunk_max : configWf { cfg0 with chunkMax := 0 } = false := by decide
theorem test_cfg_refuses_clamp : configWf { cfg0 with angleClampMin := 181 } = false := by decide
theorem test_cfg_refuses_divisor : configWf { cfg0 with speedDiv := 0 } = false := by decide
theorem test_cfg_refuses_pulse_range : configWf { cfg0 with pwMin := 2501 } = false := by decide
theorem test_cfg_refuses_speed_range : configWf { cfg0 with speedMin := 181 } = false := by decide
theorem test_cfg_refuses_units_range : configWf { cfg0 with unitsMin := 21 } = false := by decide

/-! ## Decoding: a word for every constructor (30_encoding.md R71, R75, R81; vectors V-*) -/

theorem test_decode_convAngle : decodeTableWord 32 0x1000005A = some (.convAngle 90) := by decide
theorem test_decode_convSpeed : decodeTableWord 32 0x200000B4 = some (.convSpeed 180) := by decide
theorem test_decode_split16 : decodeTableWord 32 0x30001234 = some (.split16 0x1234) := by decide
theorem test_decode_idByte : decodeTableWord 32 0x400F0000 = some (.idByte 15) := by decide
theorem test_decode_encSetspeed : decodeTableWord 32 0x5005000A = some (.encSetspeed 5 10) := by decide
theorem test_decode_encMoveto : decodeTableWord 32 0x60050242 = some (.encMoveto 5 578) := by decide
theorem test_decode_encActiongroup : decodeTableWord 32 0x70000000 = some .encActiongroup := by decide
theorem test_decode_encStop : decodeTableWord 32 0x80000000 = some (.encStoprecover .stop) := by decide
theorem test_decode_encRecover : decodeTableWord 32 0x80000001 = some (.encStoprecover .recover) := by decide
theorem test_decode_encStatusquery : decodeTableWord 32 0x90000000 = some .encStatusquery := by decide
theorem test_decode_matchResponse : decodeTableWord 32 0xA003000A = some (.matchResponse 3 10) := by decide
theorem test_decode_probe : decodeTableWord 32 0xB0000000 = some .probe := by decide
theorem test_decode_moveServo : decodeTableWord 32 0xC00F0812 = some (.moveServo 15 8 18) := by decide
theorem test_decode_emergencyStop : decodeTableWord 32 0xD0000000 = some .emergencyStop := by decide
theorem test_decode_recover : decodeTableWord 32 0xE0000000 = some .recover := by decide
theorem test_decode_startActionGroup : decodeTableWord 32 0xF0000000 = some .startActionGroup := by decide
theorem test_decode_frameSetspeed : decodeTableWord 40 0xFF01050A00 = some (.frameSetspeed 5 10) := by decide
theorem test_decode_frameMoveto : decodeTableWord 40 0xFF02054202 = some (.frameMoveto 5 578) := by decide
theorem test_decode_frameStoprecover : decodeTableWord 40 0xFF0B000100 = some .frameStoprecover := by decide
theorem test_decode_frameStatusquery : decodeTableWord 40 0xFF00120000 = some .frameStatusquery := by decide
theorem test_decode_frameActiongroup : decodeTableWord 16 0xFF09 = some (.frameActiongroup [0, 0, 0, 0]) := by decide
theorem test_decode_actiongroup_four_bytes :
    decodeFrame cfg0 [0xFF, 0x09, 0xAA, 0xBB] = some (.frameActiongroup [0xAA, 0xBB]) := by decide
theorem test_decode_pattern : decodeTableWord 32 0xF0120000 = some .patternStatusAnswer := by decide

/-! Rejections by name (V-DEC-2, 4, 5, 9, 11, 12, 16, 18), and V-DEC-20, which decodes. -/

theorem test_decode_op_first : decodeRequest 0x0F00FFFF = .illegal 0x01 := by decide
theorem test_decode_rsv : decodeRequest 0xB8000000 = .illegal 0x02 := by decide
theorem test_decode_rsv_before_mbz : decodeRequest 0x1101005A = .illegal 0x02 := by decide
theorem test_decode_mbz_b : decodeRequest 0x40050001 = .illegal 0x03 := by decide
theorem test_decode_mode_bit1 : decodeRequest 0x80000002 = .illegal 0x03 := by decide
theorem test_decode_mode_a : decodeRequest 0x80010000 = .illegal 0x03 := by decide
theorem test_decode_mbz_top_bit : decodeRequest 0xE0008000 = .illegal 0x03 := by decide
theorem test_decode_before_validation : decodeRequest 0xC1105A5A = .illegal 0x02 := by decide
theorem test_decode_no_mbz : decodeRequest 0x50FFFFFF = .ok (.encSetspeed 0xFF 0xFFFF) := by decide
theorem test_decode_frame_id_nibble : decodeFrame cfg0 [0xFF, 0x01, 0x10, 0x0A, 0x00] = none := by decide
theorem test_decode_frame_header : decodeFrame cfg0 [0xFE, 0x01, 0x05, 0x0A, 0x00] = none := by decide

/-! ## One step of each instruction -/

theorem test_convAngle_clamps : after (·.res.value) (exec (.convAngle 0) s0) = some (some 578) := by decide
theorem test_convAngle_out : after (·.res.info) (exec (.convAngle 181) s0) = some (some 0x02) := by decide
theorem test_convSpeed_floors : after (·.res.value) (exec (.convSpeed 17) s0) = some (some 1) := by decide
theorem test_convSpeed_out : after (·.res.info) (exec (.convSpeed 8) s0) = some (some 0x03) := by decide
theorem test_split16 :
    after (fun t => (t.res.hi, t.res.lo)) (exec (.split16 0x1234) s0) = some (some 0x12, some 0x34) := by decide
theorem test_idByte : after (·.res.value) (exec (.idByte 15) s0) = some (some 15) := by decide
theorem test_idByte_out : after (·.res.info) (exec (.idByte 16) s0) = some (some 0x01) := by decide
theorem test_encSetspeed : after (·.res.frame) (exec (.encSetspeed 5 10) s0) = some (some ss) := by decide
theorem test_encSetspeed_id_first : after (·.res.info) (exec (.encSetspeed 16 0) s0) = some (some 0x01) := by decide
theorem test_encMoveto : after (·.res.frame) (exec (.encMoveto 5 578) s0) = some (some mt) := by decide
theorem test_encMoveto_out : after (·.res.info) (exec (.encMoveto 5 2501) s0) = some (some 0x04) := by decide
theorem test_encActiongroup :
    after (·.res.frame) (exec .encActiongroup s0) = some (some [0xFF, 0x09, 0xAA, 0xBB]) := by decide
theorem test_encStoprecover : after (·.res.frame) (exec (.encStoprecover .recover) s0) = some (some sr) := by decide
theorem test_encStatusquery : after (·.frame) (exec .encStatusquery s0) = some sq := by decide
theorem test_matchResponse_no_budget :
    after (fun t => (t.res.status, t.res.polls)) (exec (.matchResponse 0 0) (busy 0xA0000000 .start)) =
      some (some .unmatched, some 0) := by decide
/-- V-MR-7: the pattern split across two chunks does not match, though LOG then holds it. -/
theorem test_matchResponse_split_answer :
    after (fun t => (t.phase, t.log))
      (exec (.matchResponse 3 10)
        { busy 0xA003000A .poll with rxIn := [.bytes 0 [0]], log := [0xF0, 0x12], polls := 1 }) =
      some (.busy, answer) := by decide
theorem test_probe_offline_without_read :
    after (fun t => (t.res.live, t.res.outcome, t.res.polls))
      (exec .probe { busy 0xB0000000 .writeQuery with frame := sq, txIn := [.failed 2] }) =
      some (some .offline, none, some 0) := by decide
theorem test_probe_online :
    after (fun t => (t.res.status, t.res.live)) (exec .probe { busy 0xB0000000 .poll with rxIn := [hit] }) =
      some (some .ok, some .online) := by decide
theorem test_moveServo_speed_frame_first :
    after (fun t => (t.frame, t.stepAt)) (exec (.moveServo 5 0 90) (busy 0xC005005A .start)) =
      some (ss, .writeSpeed) := by decide
theorem test_moveServo_second_write_fails :
    after (fun t => (t.res.status, t.res.info))
      (exec (.moveServo 5 0 90) { busy 0xC005005A .writeMove with frame := mt, txIn := [.failed 0] }) =
      some (some .transportWriteFailure, some 0x02) := by decide
theorem test_emergencyStop_sends :
    after (fun t => (t.trace, t.res.status))
      (exec .emergencyStop { busy 0xD0000000 .writeOnly with frame := sr, txIn := [.accepted] }) =
      some ([.tx sr true], some .ok) := by decide
theorem test_recover_frame : after (·.frame) (exec .recover (busy 0xE0000000 .start)) = some sr := by decide
theorem test_startActionGroup_frame :
    after (·.frame) (exec .startActionGroup (busy 0xF0000000 .start)) = some [0xFF, 0x09, 0xAA, 0xBB] := by decide
theorem test_frameSetspeed_then_moveto :
    after (fun t => (t.trace, t.frame))
      (exec (.frameSetspeed 5 10) { busy 0xC005005A .writeSpeed with frame := ss, txIn := [.accepted] }) =
      some ([.tx ss true], mt) := by decide
theorem test_frameMoveto_prefix :
    after (·.line)
      (exec (.frameMoveto 5 578) { busy 0xC005005A .writeMove with frame := mt, txIn := [.failed 2] }) =
      some [0xFF, 0x02] := by decide
theorem test_frameStoprecover_raw : exec .frameStoprecover s0 = .refused .noRawSend := rfl
theorem test_frameStatusquery_then_poll :
    after (·.stepAt)
      (exec .frameStatusquery { busy 0xB0000000 .writeQuery with frame := sq, txIn := [.accepted] }) =
      some .poll := by decide
theorem test_frameActiongroup :
    after (·.phase)
      (exec (.frameActiongroup [0xAA, 0xBB])
        { busy 0xF0000000 .writeOnly with frame := [0xFF, 0x09, 0xAA, 0xBB], txIn := [.accepted] }) =
      some .done := by decide
theorem test_patternStatusAnswer :
    after (·.res.outcome) (exec .patternStatusAnswer { busy 0xA003000A .poll with rxIn := [hit] }) =
      some (some .matched) := by decide
theorem test_patternStatusAnswer_not_polling : exec .patternStatusAnswer s0 = .refused .notPolling := rfl

/-! ## The step -/

theorem test_step_accepts :
    after (fun t => (t.phase, t.req)) (step { s0 with reqIn := [0xB0000000] }) = some (.busy, 0xB0000000) := by decide
theorem test_step_illegal : after (·.res.info) (step (busy 0x80000002 .start)) = some (some 0x03) := by decide
theorem test_step_delivers :
    after (fun t => (t.phase, t.trace)) (step { s0 with phase := .done, res := Result.ok, resReadyIn := [.high] }) =
      some (.idle, [.result Result.ok]) := by decide
theorem test_step_result_waits :
    after (·.phase) (step { s0 with phase := .done, res := Result.ok, resReadyIn := [.low] }) =
      some .done := by decide
/-- V-RST-2: reset between the two writes. -/
theorem test_step_reset :
    after (fun t => (t.phase, t.frame, t.trace))
      (step { busy 0xC005005A .writeMove with frame := mt, trace := [.tx ss true], rstIn := [.high 0 false] }) =
      some (.idle, [], [.tx ss true]) := by decide
theorem test_fetch_request :
    after (·.res.value) (step (State.reset.withFetchWord 32 0x1000005A)) = some (some 1500) := by decide
theorem test_fetch_frame : ((State.reset.withFetchWord 40 0xFF0B000100).frame) = sr := by decide

/-! ## Witnesses: for every statement with hypotheses, values that meet them, each clause at a boundary -/

theorem witness_ConvAngleReturnsPulseWidth :
    (180 : Half).toNat ≤ s0.cfg.angleMax.toNat ∧ s0.cfg.angleMax.toNat < (181 : Half).toNat := by decide

theorem witness_ConvSpeedReturnsSpeedUnits :
    (s0.cfg.speedMin.toNat ≤ (9 : Half).toNat ∧ (9 : Half).toNat ≤ s0.cfg.speedMax.toNat) ∧
    (8 : Half).toNat < s0.cfg.speedMin.toNat ∧ s0.cfg.speedMax.toNat < (181 : Half).toNat := by decide

theorem witness_IdByteReturnsTheId :
    (15 : Byte).toNat ≤ s0.cfg.servoIdMax.toNat ∧ s0.cfg.servoIdMax.toNat < (16 : Byte).toNat := by decide

theorem witness_PulseOfIsTheIntegerFormula :
    (180 ≤ cfg0.angleMax.toNat ∧ cfg0.pwBase.toNat + (200 * max 180 cfg0.angleClampMin.toNat + 9) / 18 < 65536) ∧
    (6 ≤ 180 ∧ 6 ≤ 6) ∧ (90 ≤ 180 ∧ 90 = 90) ∧ (180 ≤ 180 ∧ 180 = 180) := by decide

theorem witness_PulseOfIsTheRoundedQuotient : 0 ≤ 180 ∧ 180 ≤ 180 := by decide

theorem witness_PulseOfIncreasesAboveTheClamp :
    (7 ≤ 7 ∧ 7 < 8 ∧ 8 ≤ 180) ∧ (7 ≤ 179 ∧ 179 < 180 ∧ 180 ≤ 180) ∧ 7 ≤ 7 := by decide

theorem witness_UnitsOfIsTheFloorOfTheQuotient :
    (cfg0.speedMin.toNat ≤ 9 ∧ 9 ≤ cfg0.speedMax.toNat ∧ 1 ≤ cfg0.speedDiv.toNat) ∧ (9 ≤ 180 ∧ 180 ≤ 180) := by decide

theorem witness_EncSetspeedReturnsTheFrame :
    s0.cfg.servoIdMax.toNat < (16 : Byte).toNat ∧
    ((15 : Byte).toNat ≤ s0.cfg.servoIdMax.toNat ∧ (0 : Half).toNat < s0.cfg.unitsMin.toNat ∧
      s0.cfg.unitsMax.toNat < (21 : Half).toNat) ∧
    (s0.cfg.unitsMin.toNat ≤ (1 : Half).toNat ∧ (20 : Half).toNat ≤ s0.cfg.unitsMax.toNat) := by decide

theorem witness_EncMovetoReturnsTheFrame :
    s0.cfg.servoIdMax.toNat < (16 : Byte).toNat ∧
    ((15 : Byte).toNat ≤ s0.cfg.servoIdMax.toNat ∧ (499 : Half).toNat < s0.cfg.pwMin.toNat ∧
      s0.cfg.pwMax.toNat < (2501 : Half).toNat) ∧
    (s0.cfg.pwMin.toNat ≤ (500 : Half).toNat ∧ (2500 : Half).toNat ≤ s0.cfg.pwMax.toNat) := by decide

theorem witness_EveryFrameStartsWithTheHeader : configWf cfg0 = true := by decide

theorem witness_ByteMatchIsAnAlignedSubstring : [0xF0, 0x12, 0x00].length < answer.length := by decide

theorem witness_NibbleMatchIsAHexTextSubstring : chunkMatches .byte (0xF0 :: answer) answer = true := by decide

theorem witness_MatchResponseStartsTheRun :
    (busy 0xA0010000 .start).stepAt = .start ∧ (1 : Byte) ≠ 0 ∧ (0 : Byte) = 0 := by decide

/-- The four chunks of the statement, one state each. -/
theorem witness_MatchResponsePollsOneChunk :
    (busy 0xA003000A .poll).stepAt = .poll ∧
    (chunkOf cfg0.chunkMax hit = some (.bytes answer) ∧ chunkMatches cfg0.matchAlign answer cfg0.statusAnswer = true) ∧
    (chunkOf cfg0.chunkMax (.bytes 0xF0 [0x12]) = some (.bytes [0xF0, 0x12]) ∧
      chunkMatches cfg0.matchAlign [0xF0, 0x12] cfg0.statusAnswer = false) ∧
    chunkOf cfg0.chunkMax .empty = some .empty ∧ chunkOf cfg0.chunkMax .readError = some .readError := by decide

theorem witness_MatchResponseWaitsThenLoops :
    (busy 0xA0010000 .wait).stepAt = .wait ∧ (busy 0xA0010000 .wait).polls ≠ 1 ∧
    ({ busy 0xA0010000 .wait with polls := 1 } : State).polls = 1 := by decide

theorem accepted_matchResponse (answers : List RxAnswer) :
    Accepted { busy 0xA002000A .start with rxIn := answers } (.matchResponse 2 10) :=
  ⟨(by decide : configWf cfg0 = true), rfl, rfl, rfl, (by decide : decodeRequest 0xA002000A = _)⟩

/-- A match on the last poll of the budget, a read error there, and no match in two polls. -/
theorem witness_MatchResponseRunHasItsTrace :
    (∀ answers, Accepted { busy 0xA002000A .start with rxIn := answers } (.matchResponse 2 10)) ∧
    (∀ c ∈ [Chunk.empty, Chunk.bytes [0xF0]], goesOn cfg0 c) ∧
    ([Chunk.empty].length < (2 : Byte).toNat ∧ chunkMatches cfg0.matchAlign answer cfg0.statusAnswer = true ∧
      [RxAnswer.empty, hit].map (chunkOf cfg0.chunkMax) = ([Chunk.empty] ++ [Chunk.bytes answer]).map some) ∧
    [RxAnswer.empty, .readError].map (chunkOf cfg0.chunkMax) = ([Chunk.empty] ++ [Chunk.readError]).map some ∧
    ([Chunk.empty, Chunk.bytes [0xF0]].length = (2 : Byte).toNat ∧
      [RxAnswer.empty, .bytes 0xF0 []].map (chunkOf cfg0.chunkMax) = [Chunk.empty, Chunk.bytes [0xF0]].map some) := by
  refine ⟨accepted_matchResponse, ?_, by decide, by decide, by decide⟩
  intro c hc
  simp only [List.mem_cons, List.not_mem_nil, or_false] at hc
  rcases hc with rfl | rfl
  · exact trivial
  · exact (by decide : chunkMatches cfg0.matchAlign [0xF0] cfg0.statusAnswer = false)

theorem witness_PatternRowIsTheMatchersPoll :
    (busy 0xA003000A .poll).phase = .busy ∧ (busy 0xA003000A .poll).stepAt = .poll ∧
    (busy 0xA003000A .poll).cfg.statusAnswer = [0xF0, 0x12, 0x00, 0x00] ∧
    decodeRequest (busy 0xA003000A .poll).req = .ok (.matchResponse 3 10) ∧
    decodeRequest (busy 0xB0000000 .poll).req = .ok .probe ∧
    chunkOf cfg0.chunkMax hit = some (.bytes answer) ∧
    chunkMatches cfg0.matchAlign answer [0xF0, 0x12, 0x00, 0x00] = true := by decide

theorem witness_ProbeSendsTheQuery :
    (busy 0xB0000000 .start).stepAt = .start ∧
    ({ busy 0xB0000000 .writeQuery with txIn := [.accepted] } : State).txIn = .accepted :: [] ∧
    cfg0.probePolls ≠ 0 ∧
    ({ busy 0xB0000000 .writeQuery with txIn := [.failed 5] } : State).txIn = .failed 5 :: [] := by decide

theorem accepted_probe (writes : List TxAnswer) (answers : List RxAnswer) :
    Accepted { busy 0xB0000000 .start with txIn := writes, rxIn := answers } .probe :=
  ⟨(by decide : configWf cfg0 = true), rfl, rfl, rfl, (by decide : decodeRequest 0xB0000000 = _)⟩

/-- A match on the third poll, a read error there, and three polls without a match (V-PROBE-3, 4, 5). -/
theorem witness_ProbeRunHasItsTrace :
    (∀ writes answers, Accepted { busy 0xB0000000 .start with txIn := writes, rxIn := answers } .probe) ∧
    (∀ c ∈ [Chunk.empty, .empty, .empty], goesOn cfg0 c) ∧
    ([Chunk.empty, .empty].length < cfg0.probePolls.toNat ∧
      chunkMatches cfg0.matchAlign answer cfg0.statusAnswer = true ∧
      [RxAnswer.empty, .empty, hit].map (chunkOf cfg0.chunkMax) =
        ([Chunk.empty, .empty] ++ [Chunk.bytes answer]).map some) ∧
    [RxAnswer.empty, .empty, .readError].map (chunkOf cfg0.chunkMax) =
      ([Chunk.empty, .empty] ++ [Chunk.readError]).map some ∧
    ([Chunk.empty, .empty, .empty].length = cfg0.probePolls.toNat ∧
      [RxAnswer.empty, .empty, .empty].map (chunkOf cfg0.chunkMax) = [Chunk.empty, .empty, .empty].map some) := by
  refine ⟨accepted_probe, ?_, by decide, by decide, by decide⟩
  intro c hc
  simp only [List.mem_cons, List.not_mem_nil, or_false, or_self] at hc
  subst hc
  exact trivial

theorem witness_MoveServoValidatesInOrder :
    (busy 0xC0105A5A .start).stepAt = .start ∧ cfg0.servoIdMax.toNat < (16 : Byte).toNat ∧
    ((15 : Byte).toNat ≤ cfg0.servoIdMax.toNat ∧ cfg0.angleMax.toNat < (181 : Byte).toNat) ∧
    ((180 : Byte).toNat ≤ cfg0.angleMax.toNat ∧ (8 : Byte).toNat < cfg0.speedMin.toNat ∧
      cfg0.speedMax.toNat < (181 : Byte).toNat) := by decide

/-- Each line of MOVE_SERVO, with its answer. -/
theorem witness_MoveServoRunsLineByLine :
    ((busy 0xC00FB4B4 .start).stepAt = .start ∧ (15 : Byte).toNat ≤ cfg0.servoIdMax.toNat ∧
      (180 : Byte).toNat ≤ cfg0.angleMax.toNat ∧ cfg0.speedMin.toNat ≤ (9 : Byte).toNat ∧
      (180 : Byte).toNat ≤ cfg0.speedMax.toNat) ∧
    ({ busy 0xC005005A .writeSpeed with txIn := [.accepted] } : State).txIn = .accepted :: [] ∧
    (({ busy 0xC005005A .writeSpeed with txIn := [.failed 0] } : State).txIn = .failed 0 :: [] ∧
      (busy 0xC005005A .writeSpeed).cfg.moveOnSpeedFail = false) ∧
    ({ cfg0 with moveOnSpeedFail := true } : Config).moveOnSpeedFail = true ∧
    ({ busy 0xC005005A .writeMove with wfail := true, txIn := [.failed 5] } : State).txIn = .failed 5 :: [] := by
  decide

theorem accepted_moveServo (writes : List TxAnswer) (b : Bool) :
    Accepted { busy 0xC005005A .start with cfg := { cfg0 with moveOnSpeedFail := b }, txIn := writes }
      (.moveServo 5 0 90) := by
  refine ⟨?_, rfl, rfl, rfl, (by decide : decodeRequest 0xC005005A = _)⟩
  show configWf { cfg0 with moveOnSpeedFail := b } = true
  cases b <;> decide

/-- The operands are legal, and the frames are those of V-MOVE-1, for both values of MOVE_ON_SPEED_FAIL; each operand
out of range in turn. -/
theorem witness_MoveServoRunHasItsTrace (b : Bool) (writes : List TxAnswer) :
    Accepted { busy 0xC005005A .start with cfg := { cfg0 with moveOnSpeedFail := b }, txIn := writes }
      (.moveServo 5 0 90) ∧
    ((5 : Byte).toNat ≤ cfg0.servoIdMax.toNat ∧ (0 : Byte).toNat ≤ cfg0.angleMax.toNat ∧
      cfg0.speedMin.toNat ≤ (90 : Byte).toNat ∧ (90 : Byte).toNat ≤ cfg0.speedMax.toNat) ∧
    ss = setspeedBytes { cfg0 with moveOnSpeedFail := b } 5 (unitsOf { cfg0 with moveOnSpeedFail := b } 90) ∧
    mt = movetoBytes { cfg0 with moveOnSpeedFail := b } 5 (pulseOf { cfg0 with moveOnSpeedFail := b } 0) := by
  refine ⟨accepted_moveServo writes b, by decide, ?_⟩
  cases b <;> exact ⟨by decide, by decide⟩

theorem witness_MoveServoRunHasItsTrace_illegal :
    (Accepted (busy 0xC0105A5A .start) (.moveServo 16 90 90) ∧ cfg0.servoIdMax.toNat < (16 : Byte).toNat) ∧
    (Accepted (busy 0xC00FB55A .start) (.moveServo 15 181 90) ∧ cfg0.angleMax.toNat < (181 : Byte).toNat) ∧
    (Accepted (busy 0xC00FB408 .start) (.moveServo 15 180 8) ∧ (8 : Byte).toNat < cfg0.speedMin.toNat) :=
  ⟨⟨⟨(by decide : configWf cfg0 = true), rfl, rfl, rfl, (by decide : decodeRequest 0xC0105A5A = _)⟩, by decide⟩,
    ⟨⟨(by decide : configWf cfg0 = true), rfl, rfl, rfl, (by decide : decodeRequest 0xC00FB55A = _)⟩, by decide⟩,
    ⟨⟨(by decide : configWf cfg0 = true), rfl, rfl, rfl, (by decide : decodeRequest 0xC00FB408 = _)⟩, by decide⟩⟩

/-- The frames of the three operations; the line and the two answers. -/
theorem witness_FireAndForgetRunsLineByLine :
    sr = [cfg0.header, cfg0.codeStoprecover] ++ cfg0.stopPayload ∧
    [0xFF, 0x09, 0xAA, 0xBB] = [cfg0.header, cfg0.codeActiongroup] ++ cfg0.agPayload.bytes ∧
    (busy 0xD0000000 .start).stepAt = .start ∧
    ({ busy 0xE0000000 .writeOnly with txIn := [.accepted] } : State).txIn = .accepted :: [] ∧
    ({ busy 0xF0000000 .writeOnly with txIn := [.failed 4] } : State).txIn = .failed 4 :: [] := by decide

theorem witness_FireAndForgetRunHasItsTrace (writes : List TxAnswer) :
    Accepted { busy 0xD0000000 .start with txIn := writes } .emergencyStop ∧
    Accepted { busy 0xE0000000 .start with txIn := writes } .recover ∧
    Accepted { busy 0xF0000000 .start with txIn := writes } .startActionGroup :=
  ⟨⟨(by decide : configWf cfg0 = true), rfl, rfl, rfl, (by decide : decodeRequest 0xD0000000 = _)⟩,
    ⟨(by decide : configWf cfg0 = true), rfl, rfl, rfl, (by decide : decodeRequest 0xE0000000 = _)⟩,
    ⟨(by decide : configWf cfg0 = true), rfl, rfl, rfl, (by decide : decodeRequest 0xF0000000 = _)⟩⟩

/-- MOVE_SERVO about to write its SetSpeed frame. -/
def atSpeed : State := { busy 0xC005005A .writeSpeed with frame := ss, txIn := [.accepted, .failed 3] }

theorem atSpeed_line : AtLine atSpeed (.moveServo 5 0 90) :=
  ⟨(by decide : firstBad _ = none), .inl ⟨rfl, by decide, rfl⟩⟩

theorem witness_FrameRowIsItsOperationsWrite :
    AtLine atSpeed (.moveServo 5 0 90) ∧
    atSpeed.phase = .busy ∧ atSpeed.stepAt.writes = true ∧ decodeRequest atSpeed.req = .ok (.moveServo 5 0 90) ∧
    encodeFrame atSpeed.cfg (.frameSetspeed 5 10) = some atSpeed.frame :=
  ⟨atSpeed_line, by decide⟩

/-- The five frames, each where its operation is about to write it. -/
theorem witness_FrameRowsComplete :
    (decodeRequest 0xC005005A = .ok (.moveServo 5 0 90) ∧
      ss = [cfg0.header, cfg0.codeSetspeed, 5, low 10, high 10]) ∧
    (578 = pulseOf cfg0 (0 : Byte).toNat ∧ mt = [cfg0.header, cfg0.codeMoveto, 5, low 578, high 578]) ∧
    (decodeRequest 0xD0000000 = .ok .emergencyStop ∧ sr = [cfg0.header, cfg0.codeStoprecover] ++ cfg0.stopPayload) ∧
    (decodeRequest 0xB0000000 = .ok .probe ∧ cfg0.probePolls ≠ 0 ∧ sq = cfg0.statusQuery) ∧
    (decodeRequest 0xF0000000 = .ok .startActionGroup ∧
      [0xFF, 0x09, 0xAA, 0xBB] = [cfg0.header, cfg0.codeActiongroup] ++ [0xAA, 0xBB]) := by decide

theorem witness_NoRawSend :
    encodeFrame cfg0 (.frameSetspeed 5 10) = some ss ∧ s0.phase ≠ .busy ∧
    (busy 0xC005005A .start).stepAt.writes = false ∧
    ({ busy 0xC005005A .writeMove with frame := mt } : State).frame ≠ ss := by decide

theorem witness_FailedWriteMaySendAnyPrefix :
    atSpeed.txIn = .accepted :: [.failed 3] ∧ ([] : List Byte) <+: ss ∧ [0xFF, 0x01] <+: ss ∧ ss <+: ss := by decide

/-- One word for each outcome of decode. -/
theorem witness_DecodeChecksInOrder :
    (0x0F00FFFF : ReqWord).toNat / 2 ^ 28 = 0 ∧
    ((0x1101005A : ReqWord).toNat / 2 ^ 28 ≠ 0 ∧ (0x1101005A : ReqWord).toNat / 2 ^ 24 % 16 ≠ 0) ∧
    ((0x80000002 : ReqWord).toNat / 2 ^ 28 ≠ 0 ∧ (0x80000002 : ReqWord).toNat / 2 ^ 24 % 16 = 0 ∧
      (0x80000002 : ReqWord) &&& mustBeZero ((0x80000002 : ReqWord).toNat / 2 ^ 28) ≠ 0) ∧
    ((0x80000001 : ReqWord).toNat / 2 ^ 28 ≠ 0 ∧ (0x80000001 : ReqWord).toNat / 2 ^ 24 % 16 = 0 ∧
      (0x80000001 : ReqWord) &&& mustBeZero ((0x80000001 : ReqWord).toNat / 2 ^ 28) = 0) := by decide

/-- The words are those of `witness_DecodeChecksInOrder`. -/
theorem witness_IllegalRequestRaises (w : ReqWord) :
    configWf (busy w .start).cfg = true ∧ (busy w .start).rstNow = .low ∧ (busy w .start).phase = .busy ∧
    (busy w .start).req = w := ⟨(by decide : configWf cfg0 = true), rfl, rfl, rfl⟩

theorem witness_DecodeOfEncode :
    (Instr.frameSetspeed 15 0xFFFF).wf = true ∧ (Instr.frameActiongroup [1, 2]).wf = true ∧
    (Instr.frameActiongroup [1, 2, 3, 4]).wf = true ∧ (Instr.matchResponse 255 0xFFFF).wf = true := by decide

theorem witness_EncodeOfDecodedRequest : decodeRequest 0xC0FFFFFF = .ok (.moveServo 255 255 255) := by decide

theorem witness_EncodeOfDecodedFrame :
    decodeFrame cfg0 [0xFF, 0x02, 0x0F, 0xC4, 0x09] = some (.frameMoveto 15 2500) := by decide

theorem witness_StepRunsTheDecodedRequest :
    configWf (busy 0xA003000A .wait).cfg = true ∧ (busy 0xA003000A .wait).rstNow = .low ∧
    (busy 0xA003000A .wait).phase = .busy ∧ decodeRequest (busy 0xA003000A .wait).req = .ok (.matchResponse 3 10) ∧
    (busy 0xA003000A .wait).stepAt = .wait ∧ (busy 0xA003000A .start).stepAt = .start := by decide

theorem atSpeed_inv (writes : List TxAnswer) : Inv { atSpeed with txIn := writes } :=
  ⟨(by decide : configWf cfg0 = true),
    fun _ _ => ⟨.moveServo 5 0 90, (by decide : decodeRequest 0xC005005A = _), atSpeed_line⟩,
    (by decide : ss.length ≤ 6), Nat.zero_le _, (fun h => nomatch h), (fun _ _ h => nomatch h)⟩

/-- MATCH_RESPONSE about to read for the second time. -/
def atPoll : State := { busy 0xA003000A .poll with polls := 1, log := [0xF0], rxIn := [hit] }

theorem atPoll_inv (answers : List RxAnswer) : Inv { atPoll with rxIn := answers } :=
  ⟨(by decide : configWf cfg0 = true),
    fun _ _ => ⟨.matchResponse 3 10, (by decide : decodeRequest 0xA003000A = _),
      .inl ⟨rfl, (by decide : (1 : Byte).toNat < (3 : Byte).toNat)⟩, (by decide : 1 ≤ (1 : Byte).toNat * 16)⟩,
    Nat.zero_le _, (by decide : 1 ≤ 255 * 16), (fun h => nomatch h), (fun _ _ h => nomatch h)⟩

theorem witness_StepRunsTheRunningOperation :
    Inv atSpeed ∧ Inv atPoll ∧
    (atSpeed.rstNow = .low ∧ atSpeed.phase = .busy ∧ decodeRequest atSpeed.req = .ok (.moveServo 5 0 90) ∧
      atSpeed.stepAt.writes = true ∧ decodeFrame atSpeed.cfg atSpeed.frame = some (.frameSetspeed 5 10)) ∧
    (atPoll.rstNow = .low ∧ atPoll.phase = .busy ∧ decodeRequest atPoll.req = .ok (.matchResponse 3 10) ∧
      atPoll.stepAt = .poll ∧ atPoll.cfg.statusAnswer = [0xF0, 0x12, 0x00, 0x00]) :=
  ⟨atSpeed_inv _, atPoll_inv _, by decide, by decide⟩

theorem witness_RequestsAreAcceptedOnlyInIdle :
    (configWf s0.cfg = true ∧ s0.rstNow = .low ∧ s0.phase = .idle ∧ s0.reqIn = []) ∧
    ({ s0 with reqIn := [0xB0000000, 0xD0000000] } : State).reqIn = 0xB0000000 :: [0xD0000000] ∧
    (atSpeed.phase ≠ .idle ∧ (after (·.reqIn) (step atSpeed)).isSome = true) := by decide

theorem witness_ResultsAreDeliveredInDone :
    configWf ({ s0 with phase := .done, res := Result.ok, resReadyIn := [.high] } : State).cfg = true ∧
    ({ s0 with phase := .done, res := Result.ok, resReadyIn := [.high] } : State).rstNow = .low ∧
    ({ s0 with phase := .done, res := Result.ok, resReadyIn := [.high] } : State).resReadyIn = .high :: [] ∧
    ({ s0 with phase := .done, res := Result.ok, resReadyIn := [.low] } : State).resReadyIn = .low :: [] := by decide

/-- A step that records an event: its hypothesis is met, and the configuration is as it was. -/
theorem witness_OneEventAStep : ∃ t, step atSpeed = .next t ∧ t.trace = [.tx ss true] := ⟨_, rfl, rfl⟩

theorem witness_ConfigurationNeverChanges : ∃ t, step atPoll = .next t ∧ t.phase = .done := ⟨_, rfl, rfl⟩

theorem witness_OnlySessionOperationsTransmit :
    (∃ t, step atSpeed = .next t ∧ t.trace = atSpeed.trace ++ [.tx ss true]) ∧
    (∃ t, step atPoll = .next t ∧ t.trace = atPoll.trace ++ [.rx (.bytes answer)]) :=
  ⟨⟨_, rfl, rfl⟩, ⟨_, rfl, rfl⟩⟩

theorem witness_IllFormedConfigurationIsRefused :
    configWf ({ s0 with cfg := { cfg0 with chunkMax := 0 } } : State).cfg = false := by decide

theorem witness_ResetClearsTheRegisters :
    configWf ({ atSpeed with rstIn := [.high 2 false] } : State).cfg = true ∧
    ({ atSpeed with rstIn := [.high 2 false] } : State).rstIn = .high 2 false :: [] := by decide

theorem witness_ResetInsideATransaction :
    (atSpeed.phase = .busy ∧ atSpeed.stepAt.writes = true ∧ [0xFF, 0x01] <+: atSpeed.frame ∧ [] <+: atSpeed.frame ∧
      ({ atSpeed with rstIn := [.high [0xFF, 0x01].length false] } : State).rstIn = .high 2 false :: []) ∧
    (atPoll.phase = .busy ∧ atPoll.stepAt = .poll ∧ atPoll.rxIn = hit :: [] ∧
      ({ atPoll with rstIn := [.high 0 true] } : State).rstIn = .high 0 true :: []) ∧
    (s0.phase ≠ .busy ∧ ({ s0 with rstIn := [.high 9 true] } : State).rstIn = .high 9 true :: []) := by decide

theorem witness_NothingIsSentUnasked :
    configWf s0.cfg = true ∧ s0.rstIn = [] ∧ s0.phase = .idle ∧ s0.reqIn = [] ∧ runSteps 3 s0 = .next s0 :=
  ⟨by decide, rfl, rfl, rfl, rfl⟩

theorem witness_StuckTransactionStaysBusy :
    Inv { atSpeed with txIn := [.never] } ∧ Inv { atPoll with rxIn := [.never] } ∧
    (({ atSpeed with txIn := [.never] } : State).rstIn = [] ∧
      decodeRequest atSpeed.req = .ok (.moveServo 5 0 90) ∧ atSpeed.stepAt.writes = true ∧
      ({ atSpeed with txIn := [.never] } : State).nextTx = .never) ∧
    (atPoll.stepAt = .poll ∧ ({ atPoll with rxIn := [.never] } : State).nextRx = .never) :=
  ⟨atSpeed_inv _, atPoll_inv _, by decide, by decide⟩

theorem witness_UntakenResultStaysDone :
    configWf ({ s0 with phase := .done, res := Result.ok, resReadyIn := [.never] } : State).cfg = true ∧
    ({ s0 with phase := .done, res := Result.ok, resReadyIn := [.never] } : State).rstIn = [] ∧
    ({ s0 with phase := .done, res := Result.ok, resReadyIn := [.never] } : State).phase = .done ∧
    ({ s0 with phase := .done, res := Result.ok, resReadyIn := [.never] } : State).nextReady = .never := by decide

theorem witness_StepKeepsTheInvariant : Inv atSpeed ∧ ∃ t, step atSpeed = .next t ∧ t.stepAt = .writeMove :=
  ⟨atSpeed_inv _, _, rfl, rfl⟩

theorem witness_BlockNeverStops : Inv atPoll := atPoll_inv _

/-- PROBE accepted, with two writes and 255 reads answered. -/
def answered : State :=
  { busy 0xB0000000 .start with
    txIn := List.replicate 2 .accepted
    rxIn := List.replicate 255 .empty }

theorem witness_EveryOperationEnds :
    Inv answered ∧ answered.phase = .busy ∧ answered.stepAt = .start ∧ Answered answered := by
  refine ⟨⟨by decide, fun _ h => absurd rfl h, by decide, by decide, (fun h => nomatch h),
    (fun _ _ h => nomatch h)⟩, rfl, rfl, rfl, ?_, fun a h => ?_, ?_, fun a h => ?_⟩
  · exact (List.length_replicate).ge
  · rw [List.eq_of_mem_replicate h]; decide
  · exact (List.length_replicate).ge
  · rw [List.eq_of_mem_replicate h]; decide

/-- Two idle states that differ in every working register, and a run of each. -/
theorem witness_NoValueIsCarriedOver :
    s0.phase = .idle ∧
    (∃ x, runSteps 2 { s0 with reqIn := [0x1000005A] } = .next x ∧ x.phase = .done) ∧
    (∃ y,
      runSteps 2
        { s0 with
          reqIn := [0x1000005A], req := 7, stepAt := .wait, frame := mt, polls := 9, log := ss, wfail := true
          res := Result.ok } = .next y ∧ y.res.value = some 1500) :=
  ⟨rfl, ⟨_, rfl, rfl⟩, ⟨_, rfl, rfl⟩⟩

end Sys2Proof.Tests
end

/-! Scope and progress of the block (00_scope.md): what runs at a line of an operation, and that every step answers. -/

namespace Sys2Proof.Machine

/-! ## What a step in BUSY runs -/

/-- A frame's row has the meaning of the running operation where it is the frame due. -/
theorem exec_frame_due {s : State} {i f : Instr} (hb : s.phase = .busy) (hw : s.stepAt.writes = true)
    (hd : decodeRequest s.req = .ok i) (ha : AtLine s i) (hf : encodeFrame s.cfg f = some s.frame) :
    exec f s = exec i s := by
  rw [exec_frame hf, writeDue, if_pos ⟨hb, hw, rfl⟩, runningWrite_eq hw hd ha]

theorem encodeFrame_of_decodePayload {c : Config} {code : Byte} {payload : List Byte} {f : Instr}
    (h : decodePayload c code payload = some f) : encodeFrame c f = some (c.header :: code :: payload) := by
  unfold decodePayload at h
  repeat' split at h
  all_goals cases h
  next hc _ _ _ _ _ => simp [encodeFrame, setspeedBytes, idByteOf, hc]
  next hc _ _ _ _ _ => simp [encodeFrame, movetoBytes, idByteOf, hc]
  next hc hp => simp [encodeFrame, stoprecoverBytes, hc, hp]
  next hc _ => simp [encodeFrame, actiongroupBytesOf, hc]

/-- What the reader of a frame reads is written with the same bytes, under every configuration. -/
theorem encodeFrame_of_decodeFrame {c : Config} {bs : List Byte} {f : Instr} (h : decodeFrame c bs = some f) :
    encodeFrame c f = some bs := by
  unfold decodeFrame at h
  split at h
  case isTrue hq => cases h; rw [hq]; rfl
  case isFalse =>
    split at h
    · split at h
      case isTrue hh => rw [hh]; exact encodeFrame_of_decodePayload h
      case isFalse => cases h
    · cases h

/-- The row that is due at a port event: the frame in FRAME at a write, the status answer at a read. -/
theorem wireInstr_cases {s : State} {f : Instr} (h : wireInstr s = some f) :
    (s.stepAt.writes = true ∧ encodeFrame s.cfg f = some s.frame) ∨
    (s.stepAt = .poll ∧ s.cfg.statusAnswer = answerBytes ∧ f = .patternStatusAnswer) := by
  cases hs : s.stepAt <;> simp only [wireInstr, hs] at h
  case start | wait => cases h
  case poll =>
    split at h
    case isTrue hc => cases h; exact .inr ⟨rfl, hc, rfl⟩
    case isFalse => cases h
  all_goals exact .inl ⟨rfl, encodeFrame_of_decodeFrame h⟩

theorem wireInstr_start {s : State} (h : s.stepAt = .start) : wireInstr s = none := by
  simp only [wireInstr, h]

/-- At an operation's first line a step runs the request. -/
theorem stepBusy_start {s : State} {i : Instr} (hs : s.stepAt = .start) (hd : decodeRequest s.req = .ok i) :
    stepBusy s = exec i s := by
  rw [stepBusy_ok hd, wireInstr_start hs, Option.getD_none]

/-- Past the first line too a step runs the request, by way of the row that is due. -/
theorem stepBusy_atLine {s : State} {i : Instr} (hb : s.phase = .busy) (hd : decodeRequest s.req = .ok i)
    (ha : AtLine s i) : stepBusy s = exec i s := by
  rw [stepBusy_ok hd]
  cases hf : wireInstr s with
  | none => rfl
  | some f =>
    rw [Option.getD_some]
    rcases wireInstr_cases hf with ⟨hw, he⟩ | ⟨hp, hc, rfl⟩
    · exact exec_frame_due hb hw hd ha he
    · exact exec_pattern hb hp hc hd ha

/-! ## Every line of an operation has a next state -/

theorem fireAndForget_answers {f : List Byte} {s : State} (h : s.stepAt = .start ∨ s.stepAt = .writeOnly) :
    ∃ t, fireAndForget f s = .next t := by
  rcases h with h | h <;> simp [fireAndForget, h]

/-- A request answers a next state at its first line. -/
theorem exec_start_answers {s : State} {i : Instr} (hi : encodeRequest i ≠ none) (hs : s.stepAt = .start) :
    ∃ t, exec i s = .next t := by
  cases i
  case matchResponse => simp [exec, execMatchResponse, hs]
  case probe => simp [exec, execProbe, hs]
  case moveServo => simp [exec, execMoveServo, hs]
  case emergencyStop | recover | startActionGroup => exact fireAndForget_answers (.inl hs)
  case frameSetspeed | frameMoveto | frameStoprecover | frameStatusquery | frameActiongroup | patternStatusAnswer =>
    exact absurd rfl hi
  all_goals exact ⟨_, rfl⟩

theorem MatcherAt.step {n : Byte} {s : State} (h : MatcherAt n s) : s.stepAt = .poll ∨ s.stepAt = .wait :=
  h.1.imp And.left And.left

/-- An operation answers a next state at each of its later lines. -/
theorem exec_atLine_answers {s : State} {i : Instr} (ha : AtLine s i) : ∃ t, exec i s = .next t := by
  cases i
  case moveServo =>
    obtain ⟨-, ⟨hs, -⟩ | ⟨hs, -⟩⟩ := ha <;> simp [exec, execMoveServo, hs]
  case probe =>
    rcases ha with ⟨hs, -⟩ | hm
    · simp [exec, execProbe, hs]
    · rcases hm.step with hs | hs <;> simp [exec, execProbe, hs]
  case matchResponse =>
    rcases MatcherAt.step ha with hs | hs <;> simp [exec, execMatchResponse, hs]
  case emergencyStop | recover | startActionGroup => exact fireAndForget_answers (.inr ha.1)
  all_goals exact ha.elim

theorem atLine_tick {s : State} {i : Instr} : AtLine s.tick i ↔ AtLine s i := by
  cases i <;> rfl

/-- A step in BUSY answers where REQ runs at its first line or at a line of its own. -/
theorem stepBusy_answers {s : State} (hb : s.phase = .busy)
    (hl : s.stepAt ≠ .start → ∃ i, decodeRequest s.req = .ok i ∧ AtLine s i) : ∃ t, stepBusy s = .next t := by
  by_cases hs : s.stepAt = .start
  · cases hd : decodeRequest s.req with
    | illegal info => exact ⟨_, stepBusy_illegal hd⟩
    | ok i => rw [stepBusy_start hs hd]; exact exec_start_answers (decodeRequest_request hd) hs
  · obtain ⟨i, hd, ha⟩ := hl hs
    rw [stepBusy_atLine hb hd ha]
    exact exec_atLine_answers ha

/-! ## What a step records -/

theorem Records.length_le_one {s : State} {p q : Prop} {es : List Event} (h : Records s p q es) : es.length ≤ 1 := by
  rcases h with rfl | ⟨-, -, ok, rfl⟩ | ⟨-, ⟨c, rfl⟩ | ⟨d, rfl⟩⟩ <;> simp

theorem accept_trace (s : State) : (accept s).trace = s.trace := by
  unfold accept
  split <;> rfl

theorem deliver_trace (s : State) : ∃ es : List Event, es.length ≤ 1 ∧ (deliver s).trace = s.trace ++ es := by
  rcases deliver_cases s with ⟨-, e⟩ | ⟨-, e⟩ | ⟨-, e⟩ <;> rw [e]
  · exact ⟨[.result s.res], le_rfl, rfl⟩
  · exact ⟨[], Nat.zero_le _, by simp⟩
  · exact ⟨[], Nat.zero_le _, by simp⟩

/-! ## The obligations -/

/-- Settles O54, by phase: acceptance and delivery always answer, and in BUSY the invariant puts STEP at a line of the
operation in REQ. -/
theorem blockNeverStops : Obligations.BlockNeverStops := by
  intro s hi
  cases hr : s.rstNow with
  | high k b => exact ⟨_, step_high hi.config hr⟩
  | low =>
    rw [step_low hi.config hr]
    cases hp : s.phase with
    | idle => exact ⟨_, stepPhase_idle (s := s.tick) hp⟩
    | done => exact ⟨_, stepPhase_done (s := s.tick) hp⟩
    | busy =>
      rw [stepPhase_busy (s := s.tick) hp]
      refine stepBusy_answers (s := s.tick) hp fun hs => ?_
      obtain ⟨i, hd, ha⟩ := hi.line hp hs
      exact ⟨i, hd, atLine_tick.mpr ha⟩

/-- Settles O30: the frame due is the one in FRAME, whose write is the running operation's. -/
theorem frameRowIsItsOperationsWrite : Obligations.FrameRowIsItsOperationsWrite :=
  fun _ _ _ hb hw hd ha hf => exec_frame_due hb hw hd ha hf

/-- Settles O44, by what a step can have done: a reset and an acceptance record nothing, a delivery at most its result,
a line of an operation at most its port event. -/
theorem oneEventAStep : Obligations.OneEventAStep := by
  intro s t h
  obtain ⟨-, ⟨k, b, -, rfl⟩ | ⟨-, -, rfl⟩ | ⟨-, -, hb⟩ | ⟨-, -, rfl⟩⟩ := step_cases h
  · exact ⟨[], Nat.zero_le _, same_append_nil _⟩
  · exact ⟨[], Nat.zero_le _, by simp [accept_trace]⟩
  · obtain ⟨es, hm, hrec⟩ := stepBusy_moves hb
    exact ⟨es, hrec.length_le_one, hm.trace⟩
  · exact deliver_trace s.tick

/-- Settles O47: AG_PAYLOAD's length holds by its type, the other conditions are the check's own. -/
theorem illFormedConfigurationIsRefused : Obligations.IllFormedConfigurationIsRefused := by
  refine ⟨fun c => ?_, fun s => step_ill⟩
  simp only [configWf_iff, agPayload_length, and_self, true_and]

end Sys2Proof.Machine

/-! The state of the block (10_state.md): the handshakes and CFG over a step; what each meaning makes of the registers,
so that every step keeps `Inv`; which registers a run may still read; how many steps and events an operation takes. -/

namespace Sys2Proof.Machine

/-! ## The handshakes -/

theorem accept_nil {s : State} (h : s.reqIn = []) : accept s = s := by
  simp only [accept, h]

theorem accept_cons {s : State} {w : ReqWord} {ws : List ReqWord} (h : s.reqIn = w :: ws) :
    accept s = { s with req := w, phase := .busy, stepAt := .start, reqIn := ws } := by
  simp only [accept, h]

theorem accept_cfg (s : State) : (accept s).cfg = s.cfg := by
  unfold accept
  split <;> rfl

theorem deliver_high {s : State} {rest : List ReadySample} (h : s.resReadyIn = .high :: rest) :
    deliver s = { s with resReadyIn := rest, trace := s.trace ++ [.result s.res], phase := .idle } := by
  simp only [deliver, State.nextReady, State.dropReady, h]; rfl

theorem deliver_low {s : State} {rest : List ReadySample} (h : s.resReadyIn = .low :: rest) :
    deliver s = { s with resReadyIn := rest } := by
  simp only [deliver, State.nextReady, State.dropReady, h]

/-! ## What a step leaves unchanged -/

theorem step_cfg {s t : State} (h : step s = .next t) : t.cfg = s.cfg := by
  obtain ⟨-, ⟨k, b, -, rfl⟩ | ⟨-, -, rfl⟩ | ⟨-, -, hb⟩ | ⟨-, -, rfl⟩⟩ := step_cases h
  · rfl
  · exact accept_cfg s.tick
  · obtain ⟨es, hm, -⟩ := stepBusy_moves hb
    exact hm.cfg
  · exact (deliver_keeps s.tick).1

/-- The waiting requests are held outside IDLE (10_state.md R32). -/
theorem step_reqIn {s t : State} (hp : s.phase ≠ .idle) (h : step s = .next t) : t.reqIn = s.reqIn := by
  obtain ⟨-, ⟨k, b, -, rfl⟩ | ⟨-, hi, -⟩ | ⟨-, -, hb⟩ | ⟨-, -, rfl⟩⟩ := step_cases h
  · rfl
  · exact absurd hi hp
  · obtain ⟨es, hm, -⟩ := stepBusy_moves hb
    exact hm.reqIn
  · obtain ⟨-, -, -, -, -, -, -, -, -, hreq, -⟩ := deliver_keeps s.tick
    exact hreq

/-- Past its first line an operation is at one of its lines. -/
theorem Inv.atLine {s : State} {i : Instr} (h : Inv s) (hb : s.phase = .busy) (hd : decodeRequest s.req = .ok i)
    (hs : s.stepAt ≠ .start) : AtLine s i := by
  obtain ⟨j, hj, ha⟩ := h.line hb hs
  obtain rfl : i = j := by simpa [hd] using hj
  exact ha

/-- What runs in BUSY is the meaning of the request in REQ, at its first line and at its others. -/
theorem stepBusy_exec {s : State} {i : Instr} (hb : s.phase = .busy) (hd : decodeRequest s.req = .ok i)
    (hl : s.stepAt ≠ .start → AtLine s i) : stepBusy s = exec i s := by
  by_cases hs : s.stepAt = .start
  · exact stepBusy_start hs hd
  · exact stepBusy_atLine hb hd (hl hs)

theorem Inv.tick {s : State} (h : Inv s) : Inv s.tick :=
  ⟨h.config, fun hb hs => (h.line hb hs).imp fun _ hi => ⟨hi.1, atLine_tick.mpr hi.2⟩, h.frameLength, h.logLength,
    h.result, h.frames⟩

theorem step_exec {s : State} {i : Instr} (h : Inv s) (hr : s.rstNow = .low) (hb : s.phase = .busy)
    (hd : decodeRequest s.req = .ok i) : step s = exec i s.tick := by
  rw [step_low h.config hr, stepPhase_busy (s := s.tick) hb, stepBusy_exec (s := s.tick) hb hd (h.tick.atLine hb hd)]

/-! ## The registers that no phase excepts -/

/-- What `Inv` asks in every phase: of CFG, of the lengths of FRAME and LOG, and of the frames written. -/
structure InvBase (s : State) : Prop where
  config : configWf s.cfg = true
  frameLength : s.frame.length ≤ 6
  logLength : s.log.length ≤ 255 * s.cfg.chunkMax
  frames : ∀ f ok, Event.tx f ok ∈ s.trace → FrameFits s.cfg f

theorem Inv.base {s : State} (h : Inv s) : InvBase s := ⟨h.config, h.frameLength, h.logLength, h.frames⟩

theorem InvBase.setFrame {s : State} (h : InvBase s) {f : List Byte} (hf : f.length ≤ 6) : InvBase (s.setFrame f) :=
  ⟨h.config, hf, h.logLength, h.frames⟩

theorem InvBase.setStep {s : State} (h : InvBase s) (p : SeqStep) : InvBase (s.setStep p) :=
  ⟨h.config, h.frameLength, h.logLength, h.frames⟩

theorem InvBase.setWfail {s : State} (h : InvBase s) (b : Bool) : InvBase (s.setWfail b) :=
  ⟨h.config, h.frameLength, h.logLength, h.frames⟩

theorem InvBase.setPolls {s : State} (h : InvBase s) (n : Byte) : InvBase (s.setPolls n) :=
  ⟨h.config, h.frameLength, h.logLength, h.frames⟩

theorem InvBase.setLog {s : State} (h : InvBase s) {xs : List Byte} (hl : xs.length ≤ 255 * s.cfg.chunkMax) :
    InvBase (s.setLog xs) :=
  ⟨h.config, h.frameLength, hl, h.frames⟩

/-- An event that is no write of a foreign frame may be recorded. -/
theorem InvBase.record {s : State} (h : InvBase s) {e : Event} (he : ∀ f ok, e = .tx f ok → FrameFits s.cfg f) :
    InvBase (s.record e) := by
  refine ⟨h.config, h.frameLength, h.logLength, fun f ok hm => ?_⟩
  rcases List.mem_append.mp hm with hm | hm
  · exact h.frames f ok hm
  · exact he f ok (List.mem_singleton.mp hm).symm

theorem InvBase.wrote {s : State} (h : InvBase s) (hf : FrameFits s.cfg s.frame) (bs : List Byte) (ok : Bool) :
    InvBase ((s.dropTx.putLine bs).record (.tx s.frame ok)) := by
  have hd : InvBase (s.dropTx.putLine bs) :=
    ⟨by simpa using h.config, by simpa using h.frameLength, by simpa using h.logLength, by simpa using h.frames⟩
  refine hd.record fun f _ he => ?_
  obtain ⟨rfl, -⟩ := Event.tx.inj he
  simpa using hf

theorem InvBase.read {s : State} (h : InvBase s) (c : Chunk) : InvBase (s.dropRx.record (.rx c)) := by
  have hd : InvBase s.dropRx :=
    ⟨by simpa using h.config, by simpa using h.frameLength, by simpa using h.logLength, by simpa using h.frames⟩
  exact hd.record fun _ _ he => nomatch he

/-! ## The frames that the operations write fit -/

theorem FrameFits.length_le {c : Config} {f : List Byte} (h : FrameFits c f) : f.length ≤ 6 := h.2.2

theorem setspeedBytes_fits (c : Config) (id : Byte) (units : Half) : FrameFits c (setspeedBytes c id units) :=
  ⟨rfl, by simp [setspeedBytes]⟩

theorem movetoBytes_fits (c : Config) (id : Byte) (pw : Half) : FrameFits c (movetoBytes c id pw) :=
  ⟨rfl, by simp [movetoBytes]⟩

theorem actiongroupBytes_fits (c : Config) : FrameFits c (actiongroupBytes c) := by
  have := agPayload_length c.agPayload
  refine ⟨rfl, ?_⟩
  simp only [actiongroupBytes, actiongroupBytesOf, List.length_append, List.length_cons, List.length_nil]
  omega

theorem stoprecoverBytes_fits {c : Config} (h : configWf c = true) (mode : StopMode) :
    FrameFits c (stoprecoverBytes c mode) := by
  obtain ⟨-, -, -, hs, -⟩ := (configWf_iff c).mp h
  exact ⟨rfl, by simp [stoprecoverBytes, hs]⟩

theorem statusqueryBytes_fits {c : Config} (h : configWf c = true) : FrameFits c (statusqueryBytes c) := by
  obtain ⟨-, hl, hh, -⟩ := (configWf_iff c).mp h
  exact ⟨hh, by simp [statusqueryBytes, hl]⟩

/-! ## What a line of an operation leaves -/

/-- After a line of `i`: either `i` goes on at one of its lines, or it is over and its result has a status. -/
structure Stays (i : Instr) (s : State) : Prop where
  base : InvBase s
  line : (s.phase = .busy ∧ AtLine s i) ∨ (s.phase = .done ∧ ∃ st, s.res.status = some st)

theorem finish_stays {i : Instr} {r : Result} {st : Status} {s : State} (h : InvBase s) (hr : r.status = some st) :
    Stays i (finish r s) :=
  ⟨⟨h.config, h.frameLength, h.logLength, h.frames⟩, .inr ⟨rfl, st, hr⟩⟩

theorem raise_stays {i : Instr} (st : Status) (info : Byte) {s : State} (h : InvBase s) :
    Stays i (raise st info s) :=
  finish_stays h rfl

theorem returnFrame_stays {i : Instr} {f : List Byte} {s : State} (h : InvBase s) (hf : FrameFits s.cfg f) :
    Stays i (returnFrame f s) :=
  finish_stays (h.setFrame hf.length_le) rfl

theorem validated_stays {i : Instr} {checks : List (Bool × Byte)} {s : State} {go : State → State} (h : InvBase s)
    (hg : firstBad checks = none → Stays i (go s)) : Stays i (validated checks s go) := by
  rcases validated_cases checks s go with ⟨hn, e⟩ | ⟨info, -, e⟩ <;> rw [e]
  · exact hg hn
  · exact raise_stays .validationError info h

/-- A write: what holds now and after each answer's event and the lines that follow it, holds after the write. -/
theorem txWrite_keeps {P : State → Prop} {s : State} {resume : Bool → State → State} (hn : P s)
    (h : ∀ bs ok, P (resume ok ((s.dropTx.putLine bs).record (.tx s.frame ok)))) : P (txWrite s resume) := by
  rcases txWrite_cases s resume with ⟨-, e⟩ | ⟨sent, -, e⟩ | ⟨-, e⟩ <;> rw [e]
  · exact h _ _
  · exact h _ _
  · exact hn

/-- A read, likewise. -/
theorem rxRead_keeps {P : State → Prop} {s : State} {resume : Chunk → State → State} (hn : P s)
    (h : ∀ c, chunkOf s.cfg.chunkMax s.nextRx = some c → P (resume c (s.dropRx.record (.rx c)))) :
    P (rxRead s resume) := by
  rcases rxRead_cases s resume with ⟨c, hc, e⟩ | ⟨-, e⟩ <;> rw [e]
  · exact h c hc
  · exact hn

/-! ### The matcher -/

/-- POLLS does not wrap below a budget. -/
theorem toNat_succ_of_lt {p n : Byte} (h : p.toNat < n.toNat) : (p + 1).toNat = p.toNat + 1 :=
  BitVec.toNat_add_of_lt (Nat.lt_of_le_of_lt (Nat.succ_le_of_lt h) n.isLt)

section
variable {i : Instr} {n : Byte} {fin : MatchOutcome → State → State} {cfg : Config}
  (hi : ∀ s, s.cfg = cfg → MatcherAt n s → AtLine s i) (hf : ∀ o s, InvBase s → Stays i (fin o s))
include hi hf

theorem matchLoop_stays {s : State} (hc : s.cfg = cfg) (h : InvBase s) (hb : s.phase = .busy)
    (hn : s.polls.toNat ≤ n.toNat) (hl : s.log.length ≤ s.polls.toNat * s.cfg.chunkMax) :
    Stays i (matchLoop n fin s) := by
  by_cases hp : s.polls = n
  · rw [matchLoop_spent n fin s hp]
    exact hf _ _ h
  · rw [matchLoop_left n fin s hp]
    have hne : s.polls.toNat ≠ n.toNat := fun e => hp (BitVec.eq_of_toNat_eq e)
    exact ⟨h.setStep .poll, .inl ⟨hb, hi _ hc ⟨.inl ⟨rfl, lt_of_le_of_ne hn hne⟩, hl⟩⟩⟩

theorem matchStart_stays {s : State} (hc : s.cfg = cfg) (h : InvBase s) (hb : s.phase = .busy) :
    Stays i (matchStart n fin s) :=
  matchLoop_stays hi hf (s := (s.setPolls 0).setLog []) hc ((h.setPolls 0).setLog (Nat.zero_le _)) hb (Nat.zero_le _)
    (Nat.zero_le _)

theorem matchWait_stays {s : State} (d : Half) (hc : s.cfg = cfg) (h : InvBase s) (hb : s.phase = .busy)
    (hw : s.stepAt = .wait) (hm : MatcherAt n s) : Stays i (matchWait n d fin s) := by
  obtain ⟨⟨hp, -⟩ | ⟨-, -, hn⟩, hl⟩ := hm
  · rw [hw] at hp; cases hp
  · exact matchLoop_stays hi hf (s := delayFor d s) hc (h.record fun _ _ he => nomatch he) hb hn hl

/-- After a read: one poll more, at most CHUNK_MAX bytes more in LOG. -/
theorem afterRead_stays {s : State} {pattern : List Byte} {c : Chunk} (hc : s.cfg = cfg) (h : InvBase s)
    (hb : s.phase = .busy) (hn : s.polls.toNat < n.toNat) (hl : s.log.length ≤ s.polls.toNat * s.cfg.chunkMax)
    (hx : ∀ xs, c = .bytes xs → xs.length ≤ s.cfg.chunkMax) : Stays i (afterRead pattern fin c s) := by
  have hp := toNat_succ_of_lt hn
  -- The chunk's bytes are paid for by the poll that read them.
  have hlog : ∀ xs : List Byte, xs.length ≤ s.cfg.chunkMax →
      (s.log ++ xs).length ≤ (s.polls + 1).toNat * s.cfg.chunkMax := fun xs hxs => by
    rw [hp, List.length_append, Nat.succ_mul]; omega
  have hbase : ∀ xs : List Byte, xs.length ≤ s.cfg.chunkMax →
      InvBase ((s.setPolls (s.polls + 1)).setLog (s.log ++ xs)) := fun xs hxs =>
    (h.setPolls _).setLog ((hlog xs hxs).trans (Nat.mul_le_mul_right _ (Nat.le_of_lt_succ (s.polls + 1).isLt)))
  have hwait : ∀ xs : List Byte, xs.length ≤ s.cfg.chunkMax →
      Stays i (((s.setPolls (s.polls + 1)).setLog (s.log ++ xs)).setStep .wait) := fun xs hxs =>
    ⟨(hbase xs hxs).setStep .wait,
      .inl ⟨hb, hi _ hc ⟨.inr ⟨rfl, hp ▸ Nat.succ_pos _, hp ▸ hn⟩, hlog xs hxs⟩⟩⟩
  cases c with
  | readError => exact hf _ _ (h.setPolls _)
  | empty =>
    have hw := hwait [] (Nat.zero_le _)
    rwa [List.append_nil] at hw
  | bytes xs =>
    cases hm : chunkMatches s.cfg.matchAlign xs pattern
    · rw [afterRead_miss _ _ _ hm]; exact hwait xs (hx xs rfl)
    · rw [afterRead_match _ _ _ hm]; exact hf _ _ (hbase xs (hx xs rfl))

theorem matchPoll_stays {s : State} (pattern : List Byte) (hc : s.cfg = cfg) (h : InvBase s) (hb : s.phase = .busy)
    (hp : s.stepAt = .poll) (hm : MatcherAt n s) : Stays i (matchPoll pattern fin s) := by
  refine rxRead_keeps (P := Stays i) ⟨h, .inl ⟨hb, hi s hc hm⟩⟩ fun c hx => ?_
  obtain ⟨⟨-, hn⟩ | ⟨hw, -⟩, hl⟩ := hm
  · refine afterRead_stays hi hf (by simpa using hc) (h.read c) (by simpa using hb) (by simpa using hn)
      (by simpa using hl) ?_
    rintro xs rfl
    obtain ⟨-, -, -, -, hmax, -⟩ := (configWf_iff s.cfg).mp h.config
    simpa using (chunkOf_length hmax hx).2
  · rw [hp] at hw; cases hw

end

/-! ### The operations -/

/-- The frame about to be written fits. -/
theorem AtLine.frameFits {s : State} {i : Instr} (hc : configWf s.cfg = true) (ha : AtLine s i)
    (hw : s.stepAt.writes = true) : FrameFits s.cfg s.frame := by
  have hm : ∀ n, ¬ MatcherAt n s := fun n hm => by
    rcases hm.step with hs | hs <;> rw [hs] at hw <;> cases hw
  cases i
  case moveServo =>
    obtain ⟨-, ⟨-, hf, -⟩ | ⟨-, hf, -⟩⟩ := ha <;> rw [hf]
    · exact setspeedBytes_fits _ _ _
    · exact movetoBytes_fits _ _ _
  case probe =>
    obtain ⟨-, hf⟩ := ha.resolve_right (hm _)
    rw [hf]
    exact statusqueryBytes_fits hc
  case matchResponse => exact absurd ha (hm _)
  case emergencyStop | recover => rw [ha.2]; exact stoprecoverBytes_fits hc _
  case startActionGroup => rw [ha.2]; exact actiongroupBytes_fits _
  all_goals exact ha.elim

/-- A write of the frame due: it suffices that the lines after each answer leave the operation in order. -/
theorem txWrite_stays {i : Instr} {s : State} {resume : Bool → State → State} (h : InvBase s) (hb : s.phase = .busy)
    (ha : AtLine s i) (hw : s.stepAt.writes = true)
    (hr : ∀ ok u, InvBase u → u.cfg = s.cfg → u.phase = .busy → u.wfail = s.wfail → Stays i (resume ok u)) :
    Stays i (txWrite s resume) :=
  txWrite_keeps (P := Stays i) ⟨h, .inl ⟨hb, ha⟩⟩ fun bs ok =>
    hr ok _ (h.wrote (ha.frameFits h.config hw) bs ok) (by simp) (by simpa using hb) (by simp)

theorem execMatchResponse_stays {n : Byte} {d : Half} {s t : State} (h : InvBase s) (hb : s.phase = .busy)
    (hl : s.stepAt ≠ .start → AtLine s (.matchResponse n d)) (he : execMatchResponse n d s = .next t) :
    Stays (.matchResponse n d) t := by
  have hi : ∀ u, u.cfg = s.cfg → MatcherAt n u → AtLine u (.matchResponse n d) := fun _ _ hm => hm
  have hf : ∀ o u, InvBase u → Stays (.matchResponse n d) (matchReturn o u) := fun _ _ hu => finish_stays hu rfl
  cases hs : s.stepAt <;> simp only [execMatchResponse, hs, reduceCtorEq] at he <;> obtain rfl := next_inj he
  case start => exact matchStart_stays hi hf rfl h hb
  case poll => exact matchPoll_stays hi hf _ rfl h hb hs (hl (by simp [hs]))
  case wait => exact matchWait_stays hi hf _ rfl h hb hs (hl (by simp [hs]))

theorem execProbe_stays {s t : State} (h : InvBase s) (hb : s.phase = .busy)
    (hl : s.stepAt ≠ .start → AtLine s .probe) (he : execProbe s = .next t) : Stays .probe t := by
  have hi : ∀ u, u.cfg = s.cfg → MatcherAt s.cfg.probePolls u → AtLine u .probe := fun u hc hm => .inr (hc ▸ hm)
  have hf : ∀ o u, InvBase u → Stays .probe (probeReturn o u) := fun _ _ hu => finish_stays hu rfl
  have hm : s.stepAt = .poll ∨ s.stepAt = .wait → MatcherAt s.cfg.probePolls s := fun hs => by
    refine (hl ?_).resolve_left ?_ <;> rcases hs with hs | hs <;> simp [hs]
  cases hs : s.stepAt <;> simp only [execProbe, hs, reduceCtorEq] at he <;> obtain rfl := next_inj he
  case start =>
    exact ⟨(h.setFrame (statusqueryBytes_fits h.config).length_le).setStep .writeQuery, .inl ⟨hb, .inl ⟨rfl, rfl⟩⟩⟩
  case writeQuery =>
    refine txWrite_stays h hb (hl (by simp [hs])) (by rw [hs]; rfl) fun ok u hu hc hub _ => ?_
    cases ok with
    | true => exact matchStart_stays (n := u.cfg.probePolls) (hc ▸ hi) hf rfl hu hub
    | false => exact finish_stays hu rfl
  case poll => exact matchPoll_stays hi hf _ rfl h hb hs (hm (.inl hs))
  case wait => exact matchWait_stays hi hf _ rfl h hb hs (hm (.inr hs))

/-- The operations with one write: `f` is the frame they write, at their one line past the first. -/
theorem fireAndForget_stays {i : Instr} {f : List Byte} {s t : State}
    (hi : ∀ u : State, u.cfg = s.cfg → (AtLine u i ↔ u.stepAt = .writeOnly ∧ u.frame = f)) (hf : FrameFits s.cfg f)
    (h : InvBase s) (hb : s.phase = .busy) (hl : s.stepAt ≠ .start → AtLine s i)
    (he : fireAndForget f s = .next t) : Stays i t := by
  cases hs : s.stepAt <;> simp only [fireAndForget, hs, reduceCtorEq] at he <;> obtain rfl := next_inj he
  case start =>
    have ha := (hi ((s.setFrame f).setStep .writeOnly) rfl).mpr ⟨rfl, rfl⟩
    exact ⟨(h.setFrame hf.length_le).setStep .writeOnly, .inl ⟨hb, ha⟩⟩
  case writeOnly =>
    refine txWrite_stays h hb (hl (by simp [hs])) (by rw [hs]; rfl) fun ok u hu _ _ _ => ?_
    cases ok with
    | true => exact finish_stays hu rfl
    | false => exact raise_stays _ _ hu

theorem readyMove_stays {id angle speed : Byte} {s : State} (h : InvBase s) (hb : s.phase = .busy)
    (hm : MoveLegal s.cfg id angle speed) (hw : s.wfail = true → s.cfg.moveOnSpeedFail = true) :
    Stays (.moveServo id angle speed) (readyMove id angle s) :=
  ⟨(h.setFrame (movetoBytes_fits _ _ _).length_le).setStep .writeMove, .inl ⟨hb, hm, .inr ⟨rfl, rfl, hw⟩⟩⟩

theorem execMoveServo_stays {id angle speed : Byte} {s t : State} (h : InvBase s) (hb : s.phase = .busy)
    (hl : s.stepAt ≠ .start → AtLine s (.moveServo id angle speed)) (he : execMoveServo id angle speed s = .next t) :
    Stays (.moveServo id angle speed) t := by
  cases hs : s.stepAt <;> simp only [execMoveServo, hs, reduceCtorEq] at he <;> obtain rfl := next_inj he
  case start =>
    refine validated_stays h fun hm => ?_
    exact ⟨((h.setWfail false).setFrame (setspeedBytes_fits _ _ _).length_le).setStep .writeSpeed,
      .inl ⟨hb, hm, .inl ⟨rfl, rfl, rfl⟩⟩⟩
  case writeSpeed =>
    have ha := hl (by simp [hs])
    obtain ⟨-, -, hw⟩ := ha.2.resolve_right (by simp [hs])
    refine txWrite_stays h hb ha (by rw [hs]; rfl) fun ok u hu hc hub huw => ?_
    have hmu : MoveLegal u.cfg id angle speed := hc ▸ ha.1
    cases ok with
    | true => exact readyMove_stays hu hub hmu fun e => by rw [huw, hw] at e; cases e
    | false =>
      cases hg : u.cfg.moveOnSpeedFail <;> simp only [afterSpeed, hg, Bool.false_eq_true, if_false, if_true]
      · exact raise_stays _ _ hu
      · exact readyMove_stays (s := u.setWfail true) (hu.setWfail true) hub hmu fun _ => hg
  case writeMove =>
    refine txWrite_stays h hb (hl (by simp [hs])) (by rw [hs]; rfl) fun ok u hu _ _ _ => ?_
    unfold afterMove
    split_ifs
    · exact raise_stays _ _ hu
    · exact raise_stays _ _ hu
    · exact raise_stays _ _ hu
    · exact finish_stays hu rfl

/-- A request at its first line or at one of its own keeps the registers in order. -/
theorem exec_stays {i : Instr} {s t : State} (h : InvBase s) (hb : s.phase = .busy) (hi : encodeRequest i ≠ none)
    (hl : s.stepAt ≠ .start → AtLine s i) (he : exec i s = .next t) : Stays i t := by
  cases i
  case convAngle | convSpeed | idByte =>
    obtain rfl := next_inj he
    exact validated_stays h fun _ => finish_stays h rfl
  case split16 => obtain rfl := next_inj he; exact finish_stays h rfl
  case encSetspeed =>
    obtain rfl := next_inj he
    exact validated_stays h fun _ => returnFrame_stays h (setspeedBytes_fits _ _ _)
  case encMoveto =>
    obtain rfl := next_inj he
    exact validated_stays h fun _ => returnFrame_stays h (movetoBytes_fits _ _ _)
  case encActiongroup => obtain rfl := next_inj he; exact returnFrame_stays h (actiongroupBytes_fits _)
  case encStoprecover => obtain rfl := next_inj he; exact returnFrame_stays h (stoprecoverBytes_fits h.config _)
  case encStatusquery => obtain rfl := next_inj he; exact returnFrame_stays h (statusqueryBytes_fits h.config)
  case matchResponse => exact execMatchResponse_stays h hb hl he
  case probe => exact execProbe_stays h hb hl he
  case moveServo => exact execMoveServo_stays h hb hl he
  case emergencyStop =>
    exact fireAndForget_stays (fun u hc => by rw [← hc]; rfl) (stoprecoverBytes_fits h.config _) h hb hl he
  case recover =>
    exact fireAndForget_stays (fun u hc => by rw [← hc]; rfl) (stoprecoverBytes_fits h.config _) h hb hl he
  case startActionGroup =>
    exact fireAndForget_stays (fun u hc => by rw [← hc]; rfl) (actiongroupBytes_fits _) h hb hl he
  all_goals exact absurd rfl hi

/-! ## Every step keeps the invariant -/

theorem Stays.inv {i : Instr} {s : State} (h : Stays i s) (hd : decodeRequest s.req = .ok i) : Inv s := by
  refine ⟨h.base.config, fun hb _ => ?_, h.base.frameLength, h.base.logLength, fun hd => ?_, h.base.frames⟩
  · rcases h.line with ⟨-, ha⟩ | ⟨hp, -⟩
    · exact ⟨i, hd, ha⟩
    · rw [hb] at hp; cases hp
  · rcases h.line with ⟨hp, -⟩ | ⟨-, hr⟩
    · rw [hd] at hp; cases hp
    · exact hr

theorem Inv.after_resetBlock {s : State} (h : Inv s) (sent : Nat) (taken : Bool) : Inv (resetBlock s sent taken) :=
  ⟨h.config, (fun hb => nomatch hb), Nat.zero_le _, Nat.zero_le _, (fun hd => nomatch hd), h.frames⟩

theorem Inv.after_accept {s : State} (h : Inv s) : Inv (accept s) := by
  cases hq : s.reqIn with
  | nil => rwa [accept_nil hq]
  | cons w ws =>
    rw [accept_cons hq]
    exact ⟨h.config, fun _ hs => absurd rfl hs, h.frameLength, h.logLength, (fun hd => nomatch hd), h.frames⟩

theorem Inv.after_deliver {s : State} (h : Inv s) (hp : s.phase = .done) : Inv (deliver s) := by
  rcases deliver_cases s with ⟨-, e⟩ | ⟨-, e⟩ | ⟨-, e⟩ <;> rw [e]
  · exact ⟨by simpa using h.config, (fun hb => nomatch hb), by simpa using h.frameLength, by simpa using h.logLength,
      (fun hd => nomatch hd), fun f ok hm => by simpa using h.frames f ok (by simpa using hm)⟩
  · exact ⟨by simpa using h.config, fun hb => by simp [hp] at hb, by simpa using h.frameLength,
      by simpa using h.logLength, by simpa using h.result, by simpa using h.frames⟩
  · exact h

theorem Inv.after_stepBusy {s t : State} (h : Inv s) (hb : s.phase = .busy) (he : stepBusy s = .next t) : Inv t := by
  cases hd : decodeRequest s.req with
  | illegal info =>
    rw [stepBusy_illegal hd] at he
    obtain rfl := next_inj he
    exact ⟨h.config, (fun hb => nomatch hb), h.frameLength, h.logLength, fun _ => ⟨_, rfl⟩, h.frames⟩
  | ok i =>
    obtain ⟨es, hm, -⟩ := stepBusy_moves he
    rw [stepBusy_exec hb hd (h.atLine hb hd)] at he
    exact (exec_stays h.base hb (decodeRequest_request hd) (h.atLine hb hd) he).inv (hm.req ▸ hd)

/-! ## What of the registers can still be read (10_state.md R30) -/

/-- The state with every register blanked that no line to come reads before it is written: REQ and STEP outside BUSY,
FRAME but at a write, WFAIL but in MOVE_SERVO, POLLS and LOG but in a matcher run, RES but in DONE. -/
def State.live (s : State) : State :=
  { s with
    req := if s.phase = .busy then s.req else 0
    stepAt := if s.phase = .busy then s.stepAt else .start
    frame := if s.phase = .busy ∧ s.stepAt.writes = true then s.frame else []
    wfail := if s.phase = .busy ∧ (s.stepAt = .writeSpeed ∨ s.stepAt = .writeMove) then s.wfail else false
    polls := if s.phase = .busy ∧ (s.stepAt = .poll ∨ s.stepAt = .wait) then s.polls else 0
    log := if s.phase = .busy ∧ (s.stepAt = .poll ∨ s.stepAt = .wait) then s.log else []
    res := if s.phase = .done then s.res else Result.empty }

/-- The state with the registers blanked that an operation has not yet written at its first line. -/
def State.fresh (s : State) : State :=
  { s with frame := [], wfail := false, polls := 0, log := [], res := Result.empty }

/-- The state with the registers blanked that MOVE_SERVO does not read. -/
def State.unlogged (s : State) : State := { s with polls := 0, log := [], res := Result.empty }

/-- The state with the registers blanked that a matcher run does not read. -/
def State.unheard (s : State) : State := { s with frame := [], wfail := false, res := Result.empty }

section
variable {s : State}

theorem State.live_start (hb : s.phase = .busy) (hs : s.stepAt = .start) : s.live = s.fresh := by
  simp [State.live, State.fresh, hb, hs, SeqStep.writes]

theorem State.live_move (hb : s.phase = .busy) (hs : s.stepAt = .writeSpeed ∨ s.stepAt = .writeMove) :
    s.live = s.unlogged := by
  rcases hs with hs | hs <;> simp [State.live, State.unlogged, hb, hs, SeqStep.writes]

theorem State.live_write (hb : s.phase = .busy) (hs : s.stepAt = .writeQuery ∨ s.stepAt = .writeOnly) :
    s.live = s.unlogged.setWfail false := by
  rcases hs with hs | hs <;> simp [State.live, State.unlogged, State.setWfail, hb, hs, SeqStep.writes]

theorem State.live_matcher (hb : s.phase = .busy) (hs : s.stepAt = .poll ∨ s.stepAt = .wait) :
    s.live = s.unheard := by
  rcases hs with hs | hs <;> simp [State.live, State.unheard, hb, hs, SeqStep.writes]

theorem State.live_idle (hp : s.phase = .idle) :
    s.live = { s with
      req := 0, stepAt := .start, frame := [], wfail := false, polls := 0, log := [], res := Result.empty } := by
  simp [State.live, hp]

theorem State.live_done (hp : s.phase = .done) :
    s.live = { s with req := 0, stepAt := .start, frame := [], wfail := false, polls := 0, log := [] } := by
  simp [State.live, hp]

theorem State.live_req (hb : s.phase = .busy) : s.live.req = s.req := if_pos hb

theorem State.live_stepAt (hb : s.phase = .busy) : s.live.stepAt = s.stepAt := if_pos hb

theorem State.live_frame (hb : s.phase = .busy) (hw : s.stepAt.writes = true) : s.live.frame = s.frame :=
  if_pos ⟨hb, hw⟩

theorem State.live_res (hp : s.phase = .done) : s.live.res = s.res := if_pos hp

theorem State.live_live : s.live.live = s.live := by
  cases hp : s.phase
  case idle => rw [live_idle hp]; simp [State.live, hp]
  case done => rw [live_done hp]; simp [State.live, hp]
  case busy => cases hs : s.stepAt <;> simp [State.live, hp, hs, SeqStep.writes]

end

theorem State.dropTx_live (s : State) : s.dropTx.live = s.live.dropTx := by
  cases h : s.txIn <;> simp [State.dropTx, State.live, h]

theorem State.dropRx_live (s : State) : s.dropRx.live = s.live.dropRx := by
  cases h : s.rxIn <;> simp [State.dropRx, State.live, h]

theorem State.dropReady_live (s : State) : s.dropReady.live = s.live.dropReady := by
  cases h : s.resReadyIn <;> simp [State.dropReady, State.live, h]

theorem State.record_live (s : State) (e : Event) : (s.record e).live = s.live.record e := rfl

theorem State.putLine_live (s : State) (bs : List Byte) : (s.putLine bs).live = s.live.putLine bs := rfl

/-- What a run may still read of a step's answer; none where it stops. -/
def liveAnswer : Out → Option State
  | .next s => some s.live
  | .fault _ => none
  | .refused _ => none

/-! ### No line reads a blanked register -/

theorem finish_live (r : Result) (s : State) : (finish r s).live = (finish r s.live).live := rfl

theorem raise_live (st : Status) (info : Byte) (s : State) : (raise st info s).live = (raise st info s.live).live := rfl

theorem returnFrame_live (f : List Byte) (s : State) : (returnFrame f s).live = (returnFrame f s.live).live := rfl

theorem validated_live (checks : List (Bool × Byte)) {s : State} {go : State → State}
    (h : (go s).live = (go s.live).live) : (validated checks s go).live = (validated checks s.live go).live := by
  unfold validated
  split
  · exact raise_live _ _ _
  · exact h

theorem txWrite_live {s : State} {resume : Bool → State → State} (hb : s.phase = .busy) (hw : s.stepAt.writes = true)
    (hr : ∀ ok u, u.phase = .busy → u.stepAt = s.stepAt → (resume ok u).live = (resume ok u.live).live) :
    (txWrite s resume).live = (txWrite s.live resume).live := by
  have hn : s.live.nextTx = s.nextTx := rfl
  have hu : ∀ bs ok, (resume ok ((s.dropTx.putLine bs).record (.tx s.frame ok))).live =
      (resume ok ((s.live.dropTx.putLine bs).record (.tx s.frame ok))).live := fun bs ok => by
    rw [hr ok _ (by simpa using hb) (by simp), State.record_live, State.putLine_live, State.dropTx_live]
  unfold txWrite
  rw [hn, State.live_frame hb hw]
  cases s.nextTx with
  | accepted => exact hu s.frame true
  | failed sent => exact hu (s.frame.take sent) false
  | never => exact State.live_live.symm

section
variable {fin : MatchOutcome → State → State} (hf : ∀ o u, (fin o u.unheard).live = (fin o u).live)

theorem unheard_setStep_live {s : State} (hb : s.phase = .busy) {p : SeqStep} (hp : p = .poll ∨ p = .wait) :
    (s.unheard.setStep p).live = (s.setStep p).live := by
  rw [State.live_matcher (s := s.setStep p) hb hp, State.live_matcher (s := s.unheard.setStep p) hb hp]
  rfl

include hf

theorem matchLoop_unheard (n : Byte) {s : State} (hb : s.phase = .busy) :
    (matchLoop n fin s.unheard).live = (matchLoop n fin s).live := by
  by_cases hp : s.polls = n
  · rw [matchLoop_spent n fin s hp, matchLoop_spent n fin s.unheard hp, hf]
  · rw [matchLoop_left n fin s hp, matchLoop_left n fin s.unheard hp, unheard_setStep_live hb (.inl rfl)]

theorem matchStart_live (n : Byte) {s t : State} (hs : s.phase = .busy) (ht : t.phase = .busy)
    (h : ((s.setPolls 0).setLog []).unheard = ((t.setPolls 0).setLog []).unheard) :
    (matchStart n fin s).live = (matchStart n fin t).live := by
  have hl := matchLoop_unheard hf n (s := (s.setPolls 0).setLog []) hs
  rw [h, matchLoop_unheard hf n (s := (t.setPolls 0).setLog []) ht] at hl
  exact hl.symm

theorem afterRead_unheard (pattern : List Byte) (c : Chunk) {s : State} (hb : s.phase = .busy) :
    (afterRead pattern fin c s.unheard).live = (afterRead pattern fin c s).live := by
  cases c with
  | readError => exact hf .transportFailure (s.setPolls (s.polls + 1))
  | empty => exact unheard_setStep_live (s := s.setPolls (s.polls + 1)) hb (.inr rfl)
  | bytes xs =>
    cases hm : chunkMatches s.cfg.matchAlign xs pattern
    · rw [afterRead_miss fin s pattern hm, afterRead_miss fin s.unheard pattern hm]
      exact unheard_setStep_live (s := (s.setPolls (s.polls + 1)).setLog (s.log ++ xs)) hb (.inr rfl)
    · rw [afterRead_match fin s pattern hm, afterRead_match fin s.unheard pattern hm]
      exact hf .matched ((s.setPolls (s.polls + 1)).setLog (s.log ++ xs))

theorem matchPoll_live (pattern : List Byte) {s : State} (hb : s.phase = .busy) (hs : s.stepAt = .poll) :
    (matchPoll pattern fin s).live = (matchPoll pattern fin s.live).live := by
  have hn : s.live.nextRx = s.nextRx := rfl
  have hm : s.live.cfg.chunkMax = s.cfg.chunkMax := rfl
  unfold matchPoll rxRead
  rw [hn, hm]
  cases chunkOf s.cfg.chunkMax s.nextRx with
  | none => exact State.live_live.symm
  | some c =>
    have hu : s.live.dropRx.record (.rx c) = (s.dropRx.record (.rx c)).unheard := by
      rw [← State.live_matcher (by simpa using hb) (.inl (by simpa using hs)), ← State.dropRx_live, State.record_live]
    show (afterRead pattern fin c _).live = (afterRead pattern fin c _).live
    rw [hu]
    exact (afterRead_unheard hf pattern c (by simpa using hb)).symm

theorem matchWait_live (n : Byte) (d : Half) {s : State} (hb : s.phase = .busy) (hs : s.stepAt = .wait) :
    (matchWait n d fin s).live = (matchWait n d fin s.live).live := by
  rw [State.live_matcher hb (.inr hs)]
  exact (matchLoop_unheard hf n (s := delayFor d s) hb).symm

end

theorem execMatchResponse_live (n : Byte) (d : Half) {s : State} (hb : s.phase = .busy) :
    liveAnswer (execMatchResponse n d s) = liveAnswer (execMatchResponse n d s.live) := by
  have hf : ∀ o u, (matchReturn o u.unheard).live = (matchReturn o u).live := fun _ _ => rfl
  cases hs : s.stepAt <;> simp only [execMatchResponse, State.live_stepAt hb, hs, liveAnswer]
  case start =>
    rw [State.live_start hb hs]
    exact congrArg some (matchStart_live hf n hb hb rfl)
  case poll => exact congrArg some (matchPoll_live hf _ hb hs)
  case wait => exact congrArg some (matchWait_live hf n d hb hs)

/-- A first line that prepares one write leaves no more to be read than it has set. -/
theorem setFrame_setStep_live (f : List Byte) {s : State} (hb : s.phase = .busy) (hs : s.stepAt = .start) {p : SeqStep}
    (hp : p = .writeQuery ∨ p = .writeOnly) :
    ((s.setFrame f).setStep p).live = ((s.live.setFrame f).setStep p).live := by
  rw [State.live_start hb hs, State.live_write (s := (s.setFrame f).setStep p) hb hp,
    State.live_write (s := (s.fresh.setFrame f).setStep p) hb hp]
  rfl

theorem execProbe_live {s : State} (hb : s.phase = .busy) :
    liveAnswer (execProbe s) = liveAnswer (execProbe s.live) := by
  have hf : ∀ o u, (probeReturn o u.unheard).live = (probeReturn o u).live := fun _ _ => rfl
  cases hs : s.stepAt <;> simp only [execProbe, State.live_stepAt hb, hs, liveAnswer]
  case start => exact congrArg some (setFrame_setStep_live _ hb hs (.inl rfl))
  case writeQuery =>
    refine congrArg some (txWrite_live hb (by rw [hs]; rfl) fun ok u hu hus => ?_)
    rw [State.live_write hu (.inl (hus.trans hs))]
    cases ok with
    | true => exact matchStart_live hf _ hu hu rfl
    | false => rfl
  case poll => exact congrArg some (matchPoll_live hf _ hb hs)
  case wait => exact congrArg some (matchWait_live hf _ _ hb hs)

theorem fireAndForget_live (f : List Byte) {s : State} (hb : s.phase = .busy) :
    liveAnswer (fireAndForget f s) = liveAnswer (fireAndForget f s.live) := by
  cases hs : s.stepAt <;> simp only [fireAndForget, State.live_stepAt hb, hs, liveAnswer]
  case start => exact congrArg some (setFrame_setStep_live f hb hs (.inr rfl))
  case writeOnly =>
    exact congrArg some (txWrite_live hb (by rw [hs]; rfl) fun ok _ _ _ => by cases ok <;> rfl)

theorem readySpeed_live (id speed : Byte) {s : State} (hb : s.phase = .busy) (hs : s.stepAt = .start) :
    (readySpeed id speed s).live = (readySpeed id speed s.live).live := by
  rw [State.live_start hb hs, State.live_move (s := readySpeed id speed s) hb (.inl rfl),
    State.live_move (s := readySpeed id speed s.fresh) hb (.inl rfl)]
  rfl

theorem readyMove_unlogged (id angle : Byte) {s : State} (hb : s.phase = .busy) :
    (readyMove id angle s).live = (readyMove id angle s.unlogged).live := by
  rw [State.live_move (s := readyMove id angle s) hb (.inr rfl),
    State.live_move (s := readyMove id angle s.unlogged) hb (.inr rfl)]
  rfl

theorem afterSpeed_unlogged (id angle : Byte) (ok : Bool) {s : State} (hb : s.phase = .busy) :
    (afterSpeed id angle ok s).live = (afterSpeed id angle ok s.unlogged).live := by
  have hg : s.unlogged.cfg.moveOnSpeedFail = s.cfg.moveOnSpeedFail := rfl
  unfold afterSpeed
  rw [hg]
  split_ifs
  · exact readyMove_unlogged id angle hb
  · exact readyMove_unlogged id angle (s := s.setWfail true) hb
  · rfl

theorem afterMove_unlogged (pw : Half) (ok : Bool) (s : State) :
    (afterMove pw ok s).live = (afterMove pw ok s.unlogged).live := by
  have hw : s.unlogged.wfail = s.wfail := rfl
  unfold afterMove
  rw [hw]
  split_ifs <;> rfl

theorem execMoveServo_live (id angle speed : Byte) {s : State} (hb : s.phase = .busy) :
    liveAnswer (execMoveServo id angle speed s) = liveAnswer (execMoveServo id angle speed s.live) := by
  cases hs : s.stepAt <;> simp only [execMoveServo, State.live_stepAt hb, hs, liveAnswer]
  case start => exact congrArg some (validated_live _ (readySpeed_live id speed hb hs))
  case writeSpeed =>
    refine congrArg some (txWrite_live hb (by rw [hs]; rfl) fun ok u hu hus => ?_)
    rw [State.live_move hu (.inl (hus.trans hs)), afterSpeed_unlogged id angle ok hu]
  case writeMove =>
    refine congrArg some (txWrite_live hb (by rw [hs]; rfl) fun ok u hu hus => ?_)
    rw [State.live_move hu (.inr (hus.trans hs))]
    exact afterMove_unlogged _ ok u

/-- No request reads a blanked register. -/
theorem exec_live {i : Instr} (hi : encodeRequest i ≠ none) {s : State} (hb : s.phase = .busy) :
    liveAnswer (exec i s) = liveAnswer (exec i s.live) := by
  cases i
  case convAngle | convSpeed | idByte => exact congrArg some (validated_live _ (finish_live _ s))
  case split16 => rfl
  case encSetspeed | encMoveto => exact congrArg some (validated_live _ (returnFrame_live _ s))
  case encActiongroup | encStoprecover | encStatusquery => rfl
  case matchResponse n d => exact execMatchResponse_live n d hb
  case probe => exact execProbe_live hb
  case moveServo id angle speed => exact execMoveServo_live id angle speed hb
  case emergencyStop | recover | startActionGroup => exact fireAndForget_live _ hb
  all_goals exact absurd rfl hi

/-! ### Nor does a step -/

theorem sessionWrite_cases (i : Instr) :
    (encodeRequest i ≠ none ∧ sessionWrite i = exec i) ∨ sessionWrite i = fun _ => .refused .noRawSend := by
  cases i
  case probe | moveServo | emergencyStop | recover | startActionGroup => exact .inl ⟨Option.some_ne_none _, rfl⟩
  all_goals exact .inr rfl

theorem matcherPoll_cases (i : Instr) :
    (encodeRequest i ≠ none ∧ matcherPoll i = exec i) ∨ matcherPoll i = fun _ => .refused .notPolling := by
  cases i
  case probe | matchResponse => exact .inl ⟨Option.some_ne_none _, rfl⟩
  all_goals exact .inr rfl

theorem wireInstr_live {s : State} (hb : s.phase = .busy) : wireInstr s.live = wireInstr s := by
  have hc : s.live.cfg = s.cfg := rfl
  cases hs : s.stepAt <;> simp only [wireInstr, State.live_stepAt hb, hs, hc]
  all_goals rw [State.live_frame hb (by rw [hs]; rfl)]

theorem writeDue_live {s : State} (hb : s.phase = .busy) (hw : s.stepAt.writes = true) :
    liveAnswer (writeDue s.frame s) = liveAnswer (writeDue s.frame s.live) := by
  have hw' : s.live.stepAt.writes = true := by rw [State.live_stepAt hb]; exact hw
  rw [writeDue, writeDue, if_pos ⟨hb, hw, rfl⟩, if_pos ⟨hb, hw', State.live_frame hb hw⟩]
  unfold runningWrite
  rw [State.live_req hb]
  cases decodeRequest s.req with
  | illegal info => rfl
  | ok i =>
    show liveAnswer (sessionWrite i s) = liveAnswer (sessionWrite i s.live)
    rcases sessionWrite_cases i with ⟨hi, e⟩ | e
    · rw [e]; exact exec_live hi hb
    · rw [e]

theorem execPattern_live {s : State} (hb : s.phase = .busy) (hp : s.stepAt = .poll)
    (hc : s.cfg.statusAnswer = answerBytes) :
    liveAnswer (execPatternStatusAnswer s) = liveAnswer (execPatternStatusAnswer s.live) := by
  have hp' : s.live.stepAt = .poll := by rw [State.live_stepAt hb]; exact hp
  rw [execPatternStatusAnswer, execPatternStatusAnswer, if_pos ⟨hb, hp, hc⟩, if_pos ⟨hb, hp', hc⟩]
  unfold runningPoll
  rw [State.live_req hb]
  cases decodeRequest s.req with
  | illegal info => rfl
  | ok i =>
    show liveAnswer (matcherPoll i s) = liveAnswer (matcherPoll i s.live)
    rcases matcherPoll_cases i with ⟨hi, e⟩ | e
    · rw [e]; exact exec_live hi hb
    · rw [e]

theorem stepBusy_live {s : State} (hb : s.phase = .busy) :
    liveAnswer (stepBusy s) = liveAnswer (stepBusy s.live) := by
  have hr := State.live_req hb
  cases hd : decodeRequest s.req with
  | illegal info =>
    rw [stepBusy_illegal hd, stepBusy_illegal (hr ▸ hd)]
    exact congrArg some (raise_live _ _ s)
  | ok i =>
    rw [stepBusy_ok hd, stepBusy_ok (hr ▸ hd), wireInstr_live hb]
    cases hf : wireInstr s with
    | none => exact exec_live (decodeRequest_request hd) hb
    | some f =>
      simp only [Option.getD_some]
      rcases wireInstr_cases hf with ⟨hw, he⟩ | ⟨hp, hc, rfl⟩
      · rw [exec_frame he, exec_frame (s := s.live) he]
        exact writeDue_live hb hw
      · exact execPattern_live hb hp hc

theorem accept_live (s : State) : (accept s).live = (accept s.live).live := by
  cases hq : s.reqIn with
  | nil => rw [accept_nil hq, accept_nil (s := s.live) hq, State.live_live]
  | cons w ws =>
    rw [accept_cons hq, accept_cons (s := s.live) hq]
    rfl

theorem deliver_live {s : State} (hp : s.phase = .done) : (deliver s).live = (deliver s.live).live := by
  have hn : s.live.nextReady = s.nextReady := rfl
  unfold deliver
  rw [hn]
  cases s.nextReady with
  | high =>
    rw [State.live_res hp, ← State.dropReady_live]
    rfl
  | low => rw [← State.dropReady_live, State.live_live]
  | never => exact State.live_live.symm

theorem resetSent_live (s : State) (sent : Nat) : resetSent s.live sent = resetSent s sent := by
  unfold resetSent
  by_cases hw : s.phase = .busy ∧ s.stepAt.writes = true
  · have hl : s.live.stepAt.writes = true := by rw [State.live_stepAt hw.1]; exact hw.2
    have hw' : s.live.phase = .busy ∧ s.live.stepAt.writes = true := ⟨hw.1, hl⟩
    rw [if_pos hw, if_pos hw', State.live_frame hw.1 hw.2]
  · have hw' : ¬ (s.live.phase = .busy ∧ s.live.stepAt.writes = true) := fun ⟨hb, hl⟩ =>
      hw ⟨hb, by rwa [State.live_stepAt (s := s) hb] at hl⟩
    rw [if_neg hw, if_neg hw']

theorem resetLost_live (s : State) (taken : Bool) : resetLost s.live taken = resetLost s taken := by
  have hc : (s.live.phase = .busy ∧ s.live.stepAt = .poll ∧ taken = true) ↔
      (s.phase = .busy ∧ s.stepAt = .poll ∧ taken = true) :=
    and_congr_right fun hb : s.phase = .busy => by rw [State.live_stepAt hb]
  exact if_congr hc rfl rfl

theorem resetBlock_live (s : State) (sent : Nat) (taken : Bool) :
    resetBlock s.live sent taken = resetBlock s sent taken := by
  unfold resetBlock
  rw [resetSent_live, resetLost_live]
  rfl

/-- What a step answers depends on what can still be read only. -/
theorem step_live (s : State) : liveAnswer (step s) = liveAnswer (step s.live) := by
  have ht : s.live.tick = s.tick.live := rfl
  cases hc : configWf s.cfg with
  | false => rw [step_ill hc, step_ill (s := s.live) hc]
  | true =>
    cases hr : s.rstNow with
    | high k b => rw [step_high hc hr, step_high (s := s.live) hc hr, ht, resetBlock_live]
    | low =>
      rw [step_low hc hr, step_low (s := s.live) hc hr, ht]
      cases hp : s.phase with
      | idle =>
        rw [stepPhase_idle (s := s.tick) hp, stepPhase_idle (s := s.tick.live) hp]
        exact congrArg some (accept_live s.tick)
      | busy =>
        rw [stepPhase_busy (s := s.tick) hp, stepPhase_busy (s := s.tick.live) hp]
        exact stepBusy_live (s := s.tick) hp
      | done =>
        rw [stepPhase_done (s := s.tick) hp, stepPhase_done (s := s.tick.live) hp]
        exact congrArg some (deliver_live (s := s.tick) hp)

theorem runSteps_live (k : Nat) {s t : State} (h : s.live = t.live) :
    liveAnswer (runSteps k s) = liveAnswer (runSteps k t) := by
  induction k generalizing s t with
  | zero => exact congrArg some h
  | succ k ih =>
    have hst : liveAnswer (step s) = liveAnswer (step t) := by rw [step_live s, h, ← step_live t]
    simp only [runSteps]
    cases hs : step s <;> cases ht : step t <;>
      simp only [hs, ht, liveAnswer, Option.some.injEq, reduceCtorEq] at hst ⊢
    exact ih hst

/-! ## An operation's cost: its steps and its events up to DONE (10_state.md R36) -/

theorem countTx_append (es fs : List Event) : countTx (es ++ fs) = countTx es + countTx fs := by
  induction es with
  | nil => simp [countTx]
  | cons e es ih => cases e <;> simp [countTx, ih]; omega

theorem countRx_append (es fs : List Event) : countRx (es ++ fs) = countRx es + countRx fs := by
  induction es with
  | nil => simp [countRx]
  | cons e es ih => cases e <;> simp [countRx, ih]; omega

theorem countDelay_append (es fs : List Event) : countDelay (es ++ fs) = countDelay es + countDelay fs := by
  induction es with
  | nil => simp [countDelay]
  | cons e es ih => cases e <;> simp [countDelay, ih]; omega

/-- From `s` at most `k` steps reach DONE, with at most `w` writes, `r` reads and `d` delays. -/
def EndsWithin (k w r d : Nat) (s : State) : Prop :=
  ∃ (j : Nat) (t : State) (es : List Event), j ≤ k ∧ runSteps j s = .next t ∧ t.phase = .done ∧
    t.trace = s.trace ++ es ∧ countTx es ≤ w ∧ countRx es ≤ r ∧ countDelay es ≤ d

theorem EndsWithin.of_done (k w r d : Nat) {s : State} (h : s.phase = .done) : EndsWithin k w r d s :=
  ⟨0, s, [], Nat.zero_le _, rfl, h, same_append_nil _, Nat.zero_le _, Nat.zero_le _, Nat.zero_le _⟩

theorem EndsWithin.mono {k w r d k' w' r' d' : Nat} {s : State} (h : EndsWithin k w r d s) (hk : k ≤ k')
    (hw : w ≤ w') (hr : r ≤ r') (hd : d ≤ d') : EndsWithin k' w' r' d' s := by
  obtain ⟨j, t, es, hj, he, ht, htr, h1, h2, h3⟩ := h
  exact ⟨j, t, es, hj.trans hk, he, ht, htr, h1.trans hw, h2.trans hr, h3.trans hd⟩

theorem EndsWithin.step {k w r d : Nat} {s t : State} {es : List Event} (hs : step s = .next t)
    (ht : t.trace = s.trace ++ es) (h : EndsWithin k w r d t) :
    EndsWithin (k + 1) (countTx es + w) (countRx es + r) (countDelay es + d) s := by
  obtain ⟨j, u, fs, hj, he, hu, htr, h1, h2, h3⟩ := h
  refine ⟨j + 1, u, es ++ fs, Nat.succ_le_succ hj, (runSteps_succ hs).trans he, hu, ?_, ?_, ?_, ?_⟩
  · rw [htr, ht, List.append_assoc]
  · rw [countTx_append]; omega
  · rw [countRx_append]; omega
  · rw [countDelay_append]; omega

/-! ### The environment -/

/-- No reset is coming, and the transport answers `w` writes and `r` reads. -/
structure Served (w r : Nat) (s : State) : Prop where
  noReset : s.rstIn = []
  writes : w ≤ s.txIn.length
  writesEnd : ∀ a ∈ s.txIn, a ≠ TxAnswer.never
  reads : r ≤ s.rxIn.length
  readsEnd : ∀ a ∈ s.rxIn, a ≠ RxAnswer.never

theorem Answered.served {s : State} (h : Answered s) : Served 2 255 s :=
  ⟨h.noReset, h.writes, h.writesEnd, h.reads, h.readsEnd⟩

theorem Served.mono {w r w' r' : Nat} {s : State} (h : Served w r s) (hw : w' ≤ w) (hr : r' ≤ r) : Served w' r' s :=
  ⟨h.noReset, hw.trans h.writes, h.writesEnd, hr.trans h.reads, h.readsEnd⟩

/-- The lines from `s` to `t` perform no port event. -/
structure Quiet (s t : State) : Prop where
  cfg : t.cfg = s.cfg
  rstIn : t.rstIn = s.rstIn
  txIn : t.txIn = s.txIn
  rxIn : t.rxIn = s.rxIn
  trace : t.trace = s.trace

theorem Served.quiet {w r : Nat} {s t : State} (h : Served w r s) (hq : Quiet s t) : Served w r t := by
  obtain ⟨h1, h2, h3, h4, h5⟩ := h
  obtain ⟨-, hr, ht, hx, -⟩ := hq
  exact ⟨hr ▸ h1, ht ▸ h2, ht ▸ h3, hx ▸ h4, hx ▸ h5⟩

/-- An answered write completes, one way or the other. -/
theorem Served.txWrite {w r : Nat} {s : State} (h : Served (w + 1) r s) (resume : Bool → State → State) :
    ∃ ok u, txWrite s resume = resume ok u ∧ Served w r u ∧ u.trace = s.trace ++ [.tx s.frame ok] := by
  obtain ⟨hr, hw, hwe, hx, hxe⟩ := h
  cases hq : s.txIn with
  | nil => rw [hq] at hw; cases hw
  | cons a rest =>
    rw [hq] at hw hwe
    have hrest : ∀ b ∈ rest, b ≠ .never := fun b hb => hwe b (List.mem_cons_of_mem a hb)
    cases a with
    | never => exact absurd rfl (hwe _ List.mem_cons_self)
    | accepted => exact ⟨_, _, txWrite_accepted hq resume, ⟨hr, Nat.le_of_succ_le_succ hw, hrest, hx, hxe⟩, rfl⟩
    | failed sent => exact ⟨_, _, txWrite_failed hq resume, ⟨hr, Nat.le_of_succ_le_succ hw, hrest, hx, hxe⟩, rfl⟩

/-- An answered read returns a chunk. -/
theorem Served.rxRead {w r : Nat} {s : State} (h : Served w (r + 1) s) (resume : Chunk → State → State) :
    ∃ c u, rxRead s resume = resume c u ∧ Served w r u ∧ u.trace = s.trace ++ [.rx c] ∧ u.cfg = s.cfg ∧
      u.polls = s.polls := by
  obtain ⟨hr, hw, hwe, hx, hxe⟩ := h
  cases hq : s.rxIn with
  | nil => rw [hq] at hx; cases hx
  | cons a rest =>
    rw [hq] at hx hxe
    have hrest : ∀ b ∈ rest, b ≠ .never := fun b hb => hxe b (List.mem_cons_of_mem a hb)
    have hc : ∃ c, chunkOf s.cfg.chunkMax a = some c := by
      cases a with
      | never => exact absurd rfl (hxe _ List.mem_cons_self)
      | bytes x xs => exact ⟨_, rfl⟩
      | empty => exact ⟨_, rfl⟩
      | readError => exact ⟨_, rfl⟩
    obtain ⟨c, hc⟩ := hc
    exact ⟨c, _, rxRead_cons hq hc resume, ⟨hr, hw, hwe, Nat.le_of_succ_le_succ hx, hrest⟩, rfl, rfl, rfl⟩

/-! ### The lines between port events -/

theorem finish_quiet (r : Result) (s : State) : Quiet s (finish r s) := ⟨rfl, rfl, rfl, rfl, rfl⟩

theorem raise_quiet (st : Status) (info : Byte) (s : State) : Quiet s (raise st info s) := finish_quiet _ s

theorem validated_quiet (checks : List (Bool × Byte)) {s : State} {go : State → State} (h : Quiet s (go s)) :
    Quiet s (validated checks s go) := by
  unfold validated
  split
  · exact raise_quiet _ _ s
  · exact h

theorem afterSpeed_quiet (id angle : Byte) (ok : Bool) (s : State) : Quiet s (afterSpeed id angle ok s) := by
  unfold afterSpeed
  split_ifs <;> exact ⟨rfl, rfl, rfl, rfl, rfl⟩

theorem afterSpeed_line (id angle : Byte) (ok : Bool) (s : State) :
    (afterSpeed id angle ok s).phase = .done ∨ (afterSpeed id angle ok s).stepAt = .writeMove := by
  unfold afterSpeed
  split_ifs
  · exact .inr rfl
  · exact .inr rfl
  · exact .inl rfl

theorem afterMove_done (pw : Half) (ok : Bool) (s : State) :
    Quiet s (afterMove pw ok s) ∧ (afterMove pw ok s).phase = .done := by
  unfold afterMove
  split_ifs <;> exact ⟨finish_quiet _ s, rfl⟩

theorem afterOnly_done (ok : Bool) (s : State) : Quiet s (afterOnly ok s) ∧ (afterOnly ok s).phase = .done := by
  unfold afterOnly
  split_ifs <;> exact ⟨finish_quiet _ s, rfl⟩

section
variable {fin : MatchOutcome → State → State} (hf : ∀ o s, Quiet s (fin o s) ∧ (fin o s).phase = .done)
include hf

/-- The loop is over, or goes on to its next poll. -/
theorem matchLoop_next (n : Byte) (s : State) : Quiet s (matchLoop n fin s) ∧
    ((matchLoop n fin s).phase = .done ∨
      s.polls ≠ n ∧ (matchLoop n fin s).stepAt = .poll ∧ (matchLoop n fin s).polls = s.polls) := by
  by_cases hp : s.polls = n
  · rw [matchLoop_spent n fin s hp]
    exact ⟨(hf _ s).1, .inl (hf _ s).2⟩
  · rw [matchLoop_left n fin s hp]
    exact ⟨⟨rfl, rfl, rfl, rfl, rfl⟩, .inr ⟨hp, rfl, rfl⟩⟩

theorem matchStart_quiet (n : Byte) (s : State) : Quiet s (matchStart n fin s) := by
  obtain ⟨⟨h1, h2, h3, h4, h5⟩, -⟩ := matchLoop_next hf n ((s.setPolls 0).setLog [])
  exact ⟨h1, h2, h3, h4, h5⟩

/-- A poll ends the run, or leads to the delay. -/
theorem afterRead_next (pattern : List Byte) (c : Chunk) (s : State) : Quiet s (afterRead pattern fin c s) ∧
    ((afterRead pattern fin c s).phase = .done ∨
      (afterRead pattern fin c s).stepAt = .wait ∧ (afterRead pattern fin c s).polls = s.polls + 1) := by
  have hdone : ∀ o xs, Quiet s (fin o ((s.setPolls (s.polls + 1)).setLog xs)) := fun o xs => by
    obtain ⟨⟨h1, h2, h3, h4, h5⟩, -⟩ := hf o ((s.setPolls (s.polls + 1)).setLog xs)
    exact ⟨h1, h2, h3, h4, h5⟩
  cases c with
  | readError => exact ⟨hdone _ s.log, .inl (hf _ _).2⟩
  | empty => exact ⟨⟨rfl, rfl, rfl, rfl, rfl⟩, .inr ⟨rfl, rfl⟩⟩
  | bytes xs =>
    cases hm : chunkMatches s.cfg.matchAlign xs pattern
    · rw [afterRead_miss fin s pattern hm]
      exact ⟨⟨rfl, rfl, rfl, rfl, rfl⟩, .inr ⟨rfl, rfl⟩⟩
    · rw [afterRead_match fin s pattern hm]
      exact ⟨hdone .matched (s.log ++ xs), .inl (hf _ _).2⟩

end

theorem matchReturn_done (o : MatchOutcome) (s : State) : Quiet s (matchReturn o s) ∧ (matchReturn o s).phase = .done :=
  ⟨finish_quiet _ s, rfl⟩

theorem probeReturn_done (o : MatchOutcome) (s : State) : Quiet s (probeReturn o s) ∧ (probeReturn o s).phase = .done :=
  ⟨finish_quiet _ s, rfl⟩

theorem afterQuery_next (ok : Bool) (s : State) :
    Quiet s (afterQuery ok s) ∧ ((afterQuery ok s).phase = .done ∨ (afterQuery ok s).stepAt = .poll) := by
  cases ok with
  | false => exact ⟨finish_quiet _ s, .inl rfl⟩
  | true =>
    refine ⟨matchStart_quiet probeReturn_done s.cfg.probePolls s, ?_⟩
    exact (matchLoop_next probeReturn_done s.cfg.probePolls ((s.setPolls 0).setLog [])).2.imp_right fun h => h.2.1

/-- An operation's first line performs no port event. -/
theorem exec_start_quiet {i : Instr} {s t : State} (hi : encodeRequest i ≠ none) (hs : s.stepAt = .start)
    (he : exec i s = .next t) : Quiet s t := by
  cases i
  case convAngle | convSpeed | idByte => cases he; exact validated_quiet _ (finish_quiet _ s)
  case split16 => cases he; exact finish_quiet _ s
  case encSetspeed | encMoveto => cases he; exact validated_quiet _ ⟨rfl, rfl, rfl, rfl, rfl⟩
  case encActiongroup | encStoprecover | encStatusquery => cases he; exact ⟨rfl, rfl, rfl, rfl, rfl⟩
  case matchResponse n d =>
    simp only [exec, execMatchResponse, hs] at he
    cases he
    exact matchStart_quiet matchReturn_done n s
  case probe =>
    simp only [exec, execProbe, hs] at he
    cases he
    exact ⟨rfl, rfl, rfl, rfl, rfl⟩
  case moveServo =>
    simp only [exec, execMoveServo, hs] at he
    cases he
    exact validated_quiet _ ⟨rfl, rfl, rfl, rfl, rfl⟩
  case emergencyStop | recover | startActionGroup =>
    simp only [exec, execEmergencyStop, execRecover, execStartActionGroup, fireAndForget, hs] at he
    cases he
    exact ⟨rfl, rfl, rfl, rfl, rfl⟩
  all_goals exact absurd rfl hi

/-! ### Running operations -/

/-- The operation `i` runs, at its first line or at a later one, and `w` writes and `r` reads are answered. -/
structure Alive (i : Instr) (w r : Nat) (s : State) : Prop where
  base : InvBase s
  busy : s.phase = .busy
  request : decodeRequest s.req = .ok i
  line : s.stepAt ≠ .start → AtLine s i
  served : Served w r s

theorem Alive.mono {i : Instr} {w r w' r' : Nat} {s : State} (h : Alive i w r s) (hw : w' ≤ w) (hr : r' ≤ r) :
    Alive i w' r' s :=
  ⟨h.base, h.busy, h.request, h.line, h.served.mono hw hr⟩

theorem Alive.step_eq {i : Instr} {w r : Nat} {s : State} (h : Alive i w r s) : step s = exec i s := by
  have hr := h.served.noReset
  rw [step_low h.base.config (by simp only [State.rstNow, hr]), tick_nil hr, stepPhase_busy h.busy,
    stepBusy_exec h.busy h.request h.line]

/-- A line of a running operation: what is left to do after it, where the operation still runs, and the line itself. -/
theorem Alive.step {i : Instr} {w r w' r' k a b c : Nat} {s t : State} {es : List Event} (h : Alive i w r s)
    (he : exec i s = .next t) (ht : t.trace = s.trace ++ es) (hv : Served w' r' t)
    (hk : Alive i w' r' t → AtLine t i → EndsWithin k a b c t) :
    EndsWithin (k + 1) (countTx es + a) (countRx es + b) (countDelay es + c) s := by
  have hs := h.step_eq.trans he
  refine EndsWithin.step hs ht ?_
  have hst := exec_stays h.base h.busy (decodeRequest_request h.request) h.line he
  have hreq : t.req = s.req := by
    obtain ⟨_, hm, -⟩ := exec_moves he fun _ _ => h.request
    exact hm.req
  rcases hst.line with ⟨hb, ha⟩ | ⟨hp, -⟩
  · exact hk ⟨hst.base, hb, hreq ▸ h.request, fun _ => ha, hv⟩ ha
  · exact .of_done _ _ _ _ hp

theorem Alive.not_done {i : Instr} {w r : Nat} {s : State} (h : Alive i w r s) : s.phase ≠ .done := by
  rw [h.busy]; exact Phase.noConfusion

/-- A write, and the lines after its answer. -/
theorem Alive.write {i : Instr} {w r k a b c : Nat} {s : State} {resume : Bool → State → State}
    (h : Alive i (w + 1) r s) (he : exec i s = .next (txWrite s resume)) (hq : ∀ ok u, Quiet u (resume ok u))
    (hk : ∀ ok u, Alive i w r (resume ok u) → AtLine (resume ok u) i → EndsWithin k a b c (resume ok u)) :
    EndsWithin (k + 1) (a + 1) b c s := by
  obtain ⟨ok, u, e, hv, ht⟩ := h.served.txWrite resume
  rw [e] at he
  have hend := h.step he ((hq ok u).trace.trans ht) (hv.quiet (hq ok u)) (hk ok u)
  simpa [countTx, countRx, countDelay, Nat.add_comm] using hend

/-- An operation's last write. -/
theorem Alive.lastWrite {i : Instr} {w r : Nat} {s : State} {resume : Bool → State → State}
    (h : Alive i (w + 1) r s) (he : exec i s = .next (txWrite s resume))
    (hd : ∀ ok u, Quiet u (resume ok u) ∧ (resume ok u).phase = .done) : EndsWithin 1 1 0 0 s :=
  h.write he (fun ok u => (hd ok u).1) fun ok u _ _ => .of_done _ _ _ _ (hd ok u).2

section
variable {i : Instr} {n : Byte} {d : Half} {fin : MatchOutcome → State → State} {cfg : Config} {w : Nat}
  (hpoll : ∀ s : State, s.cfg = cfg → s.stepAt = .poll → exec i s = .next (matchPoll cfg.statusAnswer fin s))
  (hwait : ∀ s : State, s.cfg = cfg → s.stepAt = .wait → exec i s = .next (matchWait n d fin s))
  (hf : ∀ o s, Quiet s (fin o s) ∧ (fin o s).phase = .done)
include hf

section
include hpoll

/-- A poll costs one step and one read more than the delay it leads to. -/
theorem poll_ends {j : Nat} {s : State} (hj : ∀ u : State, u.cfg = cfg → Alive i w j u → u.stepAt = .wait →
      u.polls.toNat + j = n.toNat → EndsWithin (2 * j + 1) 0 j (j + 1) u)
    (hc : s.cfg = cfg) (h : Alive i w (j + 1) s) (hs : s.stepAt = .poll) (hp : s.polls.toNat + (j + 1) = n.toNat) :
    EndsWithin (2 * (j + 1)) 0 (j + 1) (j + 1) s := by
  obtain ⟨c, u, e, hv, ht, huc, hup⟩ := h.served.rxRead (afterRead cfg.statusAnswer fin)
  have he := hpoll s hc hs
  rw [matchPoll, e] at he
  obtain ⟨hq, hnext⟩ := afterRead_next hf cfg.statusAnswer c u
  have hend := h.step he (hq.trace.trans ht) (hv.quiet hq) fun ha _ => by
    obtain ⟨hw, hpolls⟩ := hnext.resolve_left ha.not_done
    have hsucc : (s.polls + 1).toNat = s.polls.toNat + 1 := toNat_succ_of_lt (n := n) (by omega)
    exact hj _ (hq.cfg.trans (huc.trans hc)) ha hw (by rw [hpolls, hup, hsucc]; omega)
  refine hend.mono ?_ ?_ ?_ ?_ <;> simp [countTx, countRx, countDelay] <;> omega

end

section
include hwait

/-- A delay ends the run, or leads to the next poll. -/
theorem wait_leads {r k a b c : Nat} {s : State} (hc : s.cfg = cfg) (h : Alive i w r s) (hs : s.stepAt = .wait)
    (hk : ∀ u : State, u.cfg = cfg → Alive i w r u → u.stepAt = .poll → u.polls = s.polls → s.polls ≠ n →
      EndsWithin k a b c u) : EndsWithin (k + 1) a b (c + 1) s := by
  obtain ⟨hq, hnext⟩ := matchLoop_next hf n (delayFor d s)
  have hv : Served w r (delayFor d s) :=
    ⟨h.served.noReset, h.served.writes, h.served.writesEnd, h.served.reads, h.served.readsEnd⟩
  have hend := h.step (es := [.delay d]) (hwait s hc hs) hq.trace (hv.quiet hq) fun ha _ => by
    obtain ⟨hne, hpoll, hpolls⟩ := hnext.resolve_left ha.not_done
    exact hk _ (hq.cfg.trans hc) ha hpoll hpolls hne
  simpa [countTx, countRx, countDelay, Nat.add_comm] using hend

end

include hpoll hwait

/-- With `j` polls left a delay costs one step and one delay more than they do. -/
theorem wait_ends (j : Nat) : ∀ s : State, s.cfg = cfg → Alive i w j s → s.stepAt = .wait →
    s.polls.toNat + j = n.toNat → EndsWithin (2 * j + 1) 0 j (j + 1) s := by
  induction j with
  | zero =>
    exact fun s hc h hs hp => wait_leads hwait hf hc h hs fun _ _ _ _ _ hne =>
      absurd (BitVec.eq_of_toNat_eq hp) hne
  | succ j ih =>
    exact fun s hc h hs hp => wait_leads hwait hf hc h hs fun u huc hu hus hup _ =>
      poll_ends hpoll hf ih huc hu hus (hup ▸ hp)

/-- A matcher run ends within its budget, at most 255 polls. -/
theorem matcher_ends {s : State} (hc : s.cfg = cfg) (h : Alive i w 255 s) (hm : MatcherAt n s) :
    EndsWithin 510 0 255 255 s := by
  have hn := n.isLt
  obtain ⟨⟨hs, hp⟩ | ⟨hs, hpos, hp⟩, -⟩ := hm
  · obtain ⟨j, hj⟩ := Nat.exists_eq_add_of_lt hp
    have hend := poll_ends hpoll hf (wait_ends hpoll hwait hf j) hc (h.mono le_rfl (by omega)) hs hj.symm
    exact hend.mono (by omega) le_rfl (by omega) (by omega)
  · obtain ⟨j, hj⟩ := Nat.exists_eq_add_of_le hp
    have hend := wait_ends hpoll hwait hf j s hc (h.mono le_rfl (by omega)) hs hj.symm
    exact hend.mono (by omega) le_rfl (by omega) (by omega)

end

/-! ### The operations -/

theorem matchResponse_ends {n : Byte} {d : Half} {w : Nat} {s : State} (h : Alive (.matchResponse n d) w 255 s)
    (hm : MatcherAt n s) : EndsWithin 510 0 255 255 s := by
  refine matcher_ends (fin := matchReturn) (d := d) (fun u hc hs => ?_) (fun u _ hs => ?_) matchReturn_done rfl h hm
  · simp only [exec, execMatchResponse, hs, hc]
  · simp only [exec, execMatchResponse, hs]

theorem probe_ends {w : Nat} {s : State} (h : Alive .probe w 255 s) (hm : MatcherAt s.cfg.probePolls s) :
    EndsWithin 510 0 255 255 s := by
  refine matcher_ends (fin := probeReturn) (d := s.cfg.probeIntervalMs) (fun u hc hs => ?_) (fun u hc hs => ?_)
    probeReturn_done rfl h hm
  · simp only [exec, execProbe, hs, hc]
  · simp only [exec, execProbe, hs, hc]

theorem probeQuery_ends {w : Nat} {s : State} (h : Alive .probe (w + 1) 255 s) (hs : s.stepAt = .writeQuery) :
    EndsWithin 511 1 255 255 s := by
  have he : exec .probe s = .next (txWrite s afterQuery) := by simp only [exec, execProbe, hs]
  refine h.write he (fun ok u => (afterQuery_next ok u).1) fun ok u ha hl => ?_
  have hp := (afterQuery_next ok u).2.resolve_left ha.not_done
  exact probe_ends ha (hl.resolve_left fun ⟨hw, _⟩ => by rw [hp] at hw; cases hw)

theorem moveServoMove_ends {id angle speed : Byte} {w r : Nat} {s : State}
    (h : Alive (.moveServo id angle speed) (w + 1) r s) (hs : s.stepAt = .writeMove) : EndsWithin 1 1 0 0 s :=
  h.lastWrite (by simp only [exec, execMoveServo, hs]) (afterMove_done (pulseOf s.cfg angle.toNat))

theorem moveServoSpeed_ends {id angle speed : Byte} {w r : Nat} {s : State}
    (h : Alive (.moveServo id angle speed) (w + 2) r s) (hs : s.stepAt = .writeSpeed) : EndsWithin 2 2 0 0 s := by
  have he : exec (.moveServo id angle speed) s = .next (txWrite s (afterSpeed id angle)) := by
    simp only [exec, execMoveServo, hs]
  refine h.write he (afterSpeed_quiet id angle) fun ok u ha _ => ?_
  exact moveServoMove_ends ha ((afterSpeed_line id angle ok u).resolve_left ha.not_done)

theorem fireAndForget_ends {i : Instr} {f : List Byte} {w r : Nat} {s : State} (h : Alive i (w + 1) r s)
    (hi : exec i s = fireAndForget f s) (hs : s.stepAt = .writeOnly) : EndsWithin 1 1 0 0 s :=
  h.lastWrite (by simp only [hi, fireAndForget, hs]) afterOnly_done

/-- Past its first line every operation ends. -/
theorem atLine_ends {i : Instr} {s : State} (h : Alive i 2 255 s) (ha : AtLine s i) : EndsWithin 512 2 255 255 s := by
  cases i
  case moveServo =>
    obtain ⟨-, ⟨hs, -⟩ | ⟨hs, -⟩⟩ := ha
    · exact (moveServoSpeed_ends h hs).mono (by omega) (by omega) (by omega) (by omega)
    · exact (moveServoMove_ends h hs).mono (by omega) (by omega) (by omega) (by omega)
  case probe =>
    rcases ha with ⟨hs, -⟩ | hm
    · exact (probeQuery_ends h hs).mono (by omega) (by omega) le_rfl le_rfl
    · exact (probe_ends h hm).mono (by omega) (by omega) le_rfl le_rfl
  case matchResponse => exact (matchResponse_ends h ha).mono (by omega) (by omega) le_rfl le_rfl
  case emergencyStop | recover | startActionGroup =>
    exact (fireAndForget_ends h rfl ha.1).mono (by omega) (by omega) (by omega) (by omega)
  all_goals exact ha.elim

/-- From its first line every operation ends. -/
theorem start_ends {i : Instr} {s : State} (h : Alive i 2 255 s) (hs : s.stepAt = .start) :
    EndsWithin 513 2 255 255 s := by
  have hi := decodeRequest_request h.request
  obtain ⟨t, he⟩ := exec_start_answers hi hs
  have hq := exec_start_quiet hi hs he
  have hend := h.step (es := []) he (by rw [hq.trace, List.append_nil]) (h.served.quiet hq) atLine_ends
  simpa [countTx, countRx, countDelay] using hend

/-! ## The obligations -/

/-- Settles O53, by phase: what a line of an operation leaves is `exec_stays`, and reset, acceptance and delivery
each leave no operation past its first line. -/
theorem stepKeepsTheInvariant : Obligations.StepKeepsTheInvariant := by
  intro s t hi h
  obtain ⟨-, ⟨k, b, -, rfl⟩ | ⟨-, -, rfl⟩ | ⟨-, hp, hb⟩ | ⟨-, hp, rfl⟩⟩ := step_cases h
  · exact hi.tick.after_resetBlock k b
  · exact hi.tick.after_accept
  · exact hi.tick.after_stepBusy hp hb
  · exact hi.tick.after_deliver hp

/-- Settles O55: an illegal request ends in one step; a legal one runs its first line, and what is left costs at most
two writes or one write and 255 rounds of a read and a delay. -/
theorem everyOperationEnds : Obligations.EveryOperationEnds := by
  intro s hi hb hs ha
  cases hd : decodeRequest s.req with
  | ok i => exact start_ends ⟨hi.base, hb, hd, fun hne => absurd hs hne, ha.served⟩ hs
  | illegal info =>
    have he : step s = .next (raise .illegalRequest info s) := by
      have hr := ha.noReset
      rw [step_low hi.config (by simp only [State.rstNow, hr]), tick_nil hr, stepPhase_busy hb, stepBusy_illegal hd]
    have hend := EndsWithin.step he (same_append_nil _) (.of_done 512 2 255 255 rfl)
    show EndsWithin 513 2 255 255 s
    simpa [countTx, countRx, countDelay] using hend

/-- Settles O56: IDLE states that differ in the registers only are the same once the registers that nothing reads any
more are blanked, every step keeps that, and the observation is none of them. -/
theorem noValueIsCarriedOver : Obligations.NoValueIsCarriedOver := by
  intro s w p f l n b r k x y hp hx hy
  have hst : s.live =
      { s with req := w, stepAt := p, frame := f, polls := n, log := l, wfail := b, res := r : State }.live := by
    rw [State.live_idle hp, State.live_idle]
    exact hp
  have h := runSteps_live k hst
  rw [hx, hy] at h
  have hxy : x.live = y.live := Option.some.inj h
  have hphase : y.phase = x.phase := (congrArg State.phase hxy).symm
  refine ⟨(congrArg State.trace hxy).symm, (congrArg State.line hxy).symm, hphase, fun hd => ?_⟩
  rw [← State.live_res hd, hxy, State.live_res (hphase.trans hd)]

/-- Settles O41: the row on the wire, where one is due, has the meaning of the request in REQ. -/
theorem stepRunsTheRunningOperation : Obligations.StepRunsTheRunningOperation := by
  intro s i hi hr hb hd
  have he := step_exec hi hr hb hd
  refine ⟨he, fun f hw hf => ?_, fun hp hc => ?_⟩
  · have ha := hi.tick.atLine hb hd fun hs : s.stepAt = .start => by rw [hs] at hw; cases hw
    rw [he, exec_frame_due (s := s.tick) hb hw hd ha (encodeFrame_of_decodeFrame hf)]
  · have ha := hi.tick.atLine hb hd fun hs : s.stepAt = .start => by rw [hs] at hp; cases hp
    rw [he, exec_pattern (s := s.tick) hb hp hc hd ha]

/-- Settles O45, by `step_cfg`: no meaning, no handshake and no reset writes CFG. -/
theorem configurationNeverChanges : Obligations.ConfigurationNeverChanges := fun _ _ => step_cfg

/-- Settles O42: a step in IDLE is `accept`, and no other step touches the waiting words. -/
theorem requestsAreAcceptedOnlyInIdle : Obligations.RequestsAreAcceptedOnlyInIdle := by
  intro s hc
  have hidle : s.rstNow = .low → s.phase = .idle → step s = .next (accept s.tick) := fun hr hp => by
    rw [step_low hc hr, stepPhase_idle (s := s.tick) hp]
  refine ⟨decide_eq_true_iff, fun w ws hr hp hq => ?_, fun hr hp hq => ?_, fun t hp h => step_reqIn hp h⟩
  · rw [hidle hr hp, accept_cons (s := s.tick) hq]
  · rw [hidle hr hp, accept_nil (s := s.tick) hq]

/-- Settles O43: a step in DONE is `deliver`. -/
theorem resultsAreDeliveredInDone : Obligations.ResultsAreDeliveredInDone := by
  intro s rest hc hr hp
  have hdone : step s = .next (deliver s.tick) := by rw [step_low hc hr, stepPhase_done (s := s.tick) hp]
  refine ⟨decide_eq_true hp, fun hq => ?_, fun hq => ?_⟩
  · rw [hdone, deliver_high (s := s.tick) hq]; rfl
  · rw [hdone, deliver_low (s := s.tick) hq]

/-- Settles O52: the default configuration is well-formed whatever the OPEN parameters are, and the rest is empty. -/
theorem resetMeetsTheInvariant : Obligations.ResetMeetsTheInvariant := by
  refine ⟨(configWf_iff _).mpr ?_, (fun hb => nomatch hb), Nat.zero_le _, Nat.zero_le _, (fun hd => nomatch hd),
    (fun _ _ hm => nomatch hm)⟩
  simp [State.reset, Config.standard, Config.withOpen]

end Sys2Proof.Machine

/-! The transport's streams (20_memory.md): the byte order of a frame's 16-bit field, and what a write leaves on the
line. -/

namespace Sys2Proof.Machine

/-! ## Byte order -/

theorem low_eq_ofNat (v : Half) : low v = BitVec.ofNat 8 (v.toNat % 256) := by
  rw [← low_toNat, BitVec.ofNat_toNat, BitVec.setWidth_eq]

theorem high_eq_ofNat (v : Half) : high v = BitVec.ofNat 8 (v.toNat / 256) := by
  rw [← high_toNat, BitVec.ofNat_toNat, BitVec.setWidth_eq]

/-- A reader of a low byte and the high byte after it gets their value back (20_memory.md R55). -/
theorem readField16_low_high {bytes : List Byte} {i : Nat} {v : Half} (hlo : bytes[i]? = some (low v))
    (hhi : bytes[i + 1]? = some (high v)) : readField16 bytes i = some v.toNat := by
  have hv : (low v).toNat + 256 * (high v).toNat = v.toNat := by
    rw [low_toNat, high_toNat, Nat.mod_add_div]
  simp [readField16, hlo, hhi, hv]

/-- Settles O14: both frames hold `low v` at index 3 and `high v` at index 4, which are the remainder and the quotient
of `v` by 256. -/
theorem frameFieldsAreLowByteFirst : Obligations.FrameFieldsAreLowByteFirst := by
  intro c id v
  rw [← low_eq_ofNat, ← high_eq_ofNat]
  exact ⟨⟨rfl, rfl, readField16_low_high rfl rfl⟩, ⟨rfl, rfl, readField16_low_high rfl rfl⟩⟩

/-! ## What a write leaves on the line -/

/-- Settles O33: a prefix of FRAME is FRAME's first bytes up to the prefix's length, and a write that fails after that
many bytes leaves just those. -/
theorem failedWriteMaySendAnyPrefix : Obligations.FailedWriteMaySendAnyPrefix := by
  intro s rest resume
  refine ⟨fun h => txWrite_accepted h resume, fun sentBytes hp h => ?_⟩
  have hsent : s.frame.take sentBytes.length = sentBytes := (List.prefix_iff_eq_take.mp hp).symm
  rw [txWrite_failed h resume, hsent]

end Sys2Proof.Machine

/-! Decode and encode (30_encoding.md): the checks on a request word, a request's word and a frame's bytes read back,
and what a step in BUSY runs of them. -/

namespace Sys2Proof.Machine

/-! ## The checks of a request word -/

theorem fieldA_eq_ofNat (w : ReqWord) : fieldA w = BitVec.ofNat 8 (w.toNat / 2 ^ 16 % 256) := by
  rw [← fieldA_toNat, BitVec.ofNat_toNat, BitVec.setWidth_eq]

theorem fieldB_eq_ofNat (w : ReqWord) : fieldB w = BitVec.ofNat 16 (w.toNat % 65536) := by
  rw [← fieldB_toNat, BitVec.ofNat_toNat, BitVec.setWidth_eq]

/-- OP 0 alone names no operation (30_encoding.md R71). -/
theorem operation_eq_none_iff (op : BitVec 4) (a : Byte) (b : Half) : operation op.toNat a b = none ↔ op = 0#4 := by
  obtain ⟨op, hop⟩ := op
  interval_cases op <;> simp [operation]

theorem decodeRequest_opZero {w : ReqWord} (hop : fieldOp w = 0) : decodeRequest w = .illegal 0x01 := by
  simp only [decodeRequest, (operation_eq_none_iff _ _ _).mpr hop]

/-- A word with an OP is checked for RSV, then for the must-be-zero bits of its OP (30_encoding.md R72). -/
theorem decodeRequest_opNonzero {w : ReqWord} (hop : fieldOp w ≠ 0) :
    ∃ i, operation (fieldOp w).toNat (fieldA w) (fieldB w) = some i ∧
      decodeRequest w =
        if fieldRsv w ≠ 0 then .illegal 0x02
        else if w &&& mustBeZero (fieldOp w).toNat ≠ 0 then .illegal 0x03
        else .ok i := by
  obtain ⟨i, hi⟩ := Option.ne_none_iff_exists'.mp (mt (operation_eq_none_iff _ (fieldA w) (fieldB w)).mp hop)
  exact ⟨i, hi, by simp only [decodeRequest, hi]⟩

/-- A word decodes to the operation of its OP exactly where every check passes. -/
theorem decodeRequest_eq_ok_iff {w : ReqWord} {i : Instr} : decodeRequest w = .ok i ↔
    fieldRsv w = 0 ∧ w &&& mustBeZero (fieldOp w).toNat = 0 ∧
      operation (fieldOp w).toNat (fieldA w) (fieldB w) = some i := by
  by_cases hop : fieldOp w = 0
  · simp [decodeRequest_opZero hop, (operation_eq_none_iff _ _ _).mpr hop]
  · obtain ⟨j, hj, hd⟩ := decodeRequest_opNonzero hop
    rw [hd, hj]
    split_ifs <;> simp_all

/-! ## A request and its word -/

/-- The stop mode is B's low bit, and the other bits of B must be zero (30_encoding.md R71). -/
theorem modeBits_modeOf {b : Half} (h : b = 0#16 ∨ b = 1#16) : modeBits (modeOf b) = b := by
  rcases h with rfl | rfl <;> rfl

theorem modeOf_modeBits (mode : StopMode) : modeOf (modeBits mode) = mode := by
  cases mode <;> rfl

theorem modeBits_eq_zero_or_one (mode : StopMode) : modeBits mode = 0#16 ∨ modeBits mode = 1#16 := by
  cases mode
  · exact .inl rfl
  · exact .inr rfl

/-- The operation of an OP is written with that OP and the operands it was assembled from: of the bits it does not use,
every one is in the mask of its OP. For each OP the mask empties A, B, both, B but for the mode bit, or neither. -/
theorem encodeRequest_of_operation {op : BitVec 4} {a : Byte} {b : Half} {i : Instr}
    (ho : operation op.toNat a b = some i) (hz : requestWord op a b &&& mustBeZero op.toNat = 0) :
    encodeRequest i = some (requestWord op a b) := by
  obtain ⟨op, hop⟩ := op
  interval_cases op <;> cases ho <;> simp_all [mustBeZero, encodeRequest, modeBits_modeOf]

/-- Each request's word passes the checks of its OP and carries its operands. -/
theorem decodeRequest_of_encodeRequest {w : ReqWord} {i : Instr} (h : encodeRequest i = some w) :
    decodeRequest w = .ok i := by
  rw [decodeRequest_eq_ok_iff]
  cases i <;> cases h <;> simp [operation, mustBeZero, modeOf_modeBits, modeBits_eq_zero_or_one]

theorem decodeRequest_iff_encodeRequest {w : ReqWord} {i : Instr} :
    decodeRequest w = .ok i ↔ encodeRequest i = some w := by
  refine ⟨fun h => ?_, decodeRequest_of_encodeRequest⟩
  obtain ⟨hr, hz, ho⟩ := decodeRequest_eq_ok_iff.mp h
  rw [← requestWord_fields hr, fieldOp_requestWord] at hz
  rw [encodeRequest_of_operation ho hz, requestWord_fields hr]

/-- A request's operands fill their fields: every request is well-formed (30_encoding.md R73). -/
theorem wf_of_encodeRequest {w : ReqWord} {i : Instr} (h : encodeRequest i = some w) : i.wf = true := by
  cases i
  case frameSetspeed | frameMoveto | frameStoprecover | frameStatusquery | frameActiongroup | patternStatusAnswer =>
    cases h
  all_goals rfl

/-! ## A frame and its bytes -/

theorem decodePayload_wf {c : Config} {code : Byte} {payload : List Byte} {f : Instr}
    (h : decodePayload c code payload = some f) : f.wf = true := by
  unfold decodePayload at h
  repeat' split at h
  all_goals cases h
  next hid => exact hid
  next hid => exact hid
  next => rfl
  next hp => exact hp

/-- The reader of a frame reads no ill-formed one. -/
theorem decodeFrame_wf {c : Config} {bs : List Byte} {f : Instr} (h : decodeFrame c bs = some f) : f.wf = true := by
  unfold decodeFrame at h
  split at h
  case isTrue => cases h; rfl
  case isFalse =>
    split at h
    · split at h
      case isTrue => exact decodePayload_wf h
      case isFalse => cases h
    · cases h

/-- Under the values of 00_scope.md R7 the StatusQuery frame is told from the others by its code byte 0. -/
theorem decodeFrame_standard {code : Byte} (h : code ≠ 0) (payload : List Byte) :
    decodeFrame Config.standard (Config.standard.header :: code :: payload) =
      decodePayload Config.standard code payload := by
  have hq : Config.standard.header :: code :: payload ≠ Config.standard.statusQuery := fun e => by
    simp only [Config.standard, Config.withOpen, List.cons.injEq] at e
    exact h e.2.1
  simp only [decodeFrame, if_neg hq, if_true]

/-- Under the values of 00_scope.md R7 a frame's bytes are read back as that frame: its code byte is no other kind's. -/
theorem decodeFrame_of_encodeFrame {bs : List Byte} {f : Instr} (hf : encodeFrame Config.standard f = some bs)
    (hwf : f.wf = true) : decodeFrame Config.standard bs = some f := by
  cases f <;> cases hf
  case frameStatusquery => rfl
  case frameStoprecover => rfl
  case frameSetspeed id units =>
    have hp : decodePayload Config.standard Config.standard.codeSetspeed [id, low units, high units] =
        some (.frameSetspeed id (combine (high units) (low units))) := if_pos hwf
    rw [combine_split] at hp
    exact (decodeFrame_standard (by decide) _).trans hp
  case frameMoveto id pw =>
    have hp : decodePayload Config.standard Config.standard.codeMoveto [id, low pw, high pw] =
        some (.frameMoveto id (combine (high pw) (low pw))) := if_pos hwf
    rw [combine_split] at hp
    exact (decodeFrame_standard (by decide) _).trans hp
  case frameActiongroup payload =>
    have hp : decodePayload Config.standard Config.standard.codeActiongroup payload =
        some (.frameActiongroup payload) := if_pos hwf
    exact (decodeFrame_standard (by decide) _).trans hp

/-- The one row that is neither a request nor a frame (30_encoding.md R81). -/
theorem eq_patternStatusAnswer {i : Instr} (hr : encodeRequest i = none) (hf : encodeFrame Config.standard i = none) :
    i = .patternStatusAnswer := by
  cases i
  case patternStatusAnswer => rfl
  case frameSetspeed | frameMoveto | frameStoprecover | frameStatusquery | frameActiongroup =>
    exact absurd hf (Option.some_ne_none _)
  all_goals exact absurd hr (Option.some_ne_none _)

/-! ## What a step in BUSY runs of them -/

/-- An illegal request's step in BUSY raises its info and does nothing else (30_encoding.md R83). -/
theorem step_illegal {s : State} {info : Byte} (hc : configWf s.cfg = true) (hr : s.rstNow = .low)
    (hb : s.phase = .busy) (hd : decodeRequest s.req = .illegal info) :
    step s = .next { s.tick with phase := .done, res := Result.error .illegalRequest info } := by
  rw [step_low hc hr, stepPhase_busy (s := s.tick) hb, stepBusy_illegal (s := s.tick) hd, raise_eq]

theorem wireInstr_wait {s : State} (h : s.stepAt = .wait) : wireInstr s = none := by
  simp only [wireInstr, h]

/-- The status answer's row is the poll of the request in REQ, where that is a request that polls. -/
theorem exec_patternStatusAnswer {s : State} {i : Instr} (hb : s.phase = .busy) (hp : s.stepAt = .poll)
    (hc : s.cfg.statusAnswer = answerBytes) (hd : decodeRequest s.req = .ok i) :
    exec .patternStatusAnswer s = matcherPoll i s := by
  have hrow : exec .patternStatusAnswer s = runningPoll s := if_pos ⟨hb, hp, hc⟩
  rw [hrow, runningPoll, hd]

theorem execMatchResponse_poll {s : State} (hp : s.stepAt = .poll) (n : Byte) (d : Half) :
    execMatchResponse n d s = .next (matchPoll s.cfg.statusAnswer matchReturn s) := by
  simp only [execMatchResponse, hp]

/-- A poll whose chunk holds the pattern ends the run, the chunk counted and logged (42_response_matcher.md R140). -/
theorem matchPoll_match {pattern : List Byte} {fin : MatchOutcome → State → State} {s : State} {a : RxAnswer}
    {rest : List RxAnswer} {xs : List Byte} (hq : s.rxIn = a :: rest)
    (hx : chunkOf s.cfg.chunkMax a = some (.bytes xs)) (hm : chunkMatches s.cfg.matchAlign xs pattern = true) :
    matchPoll pattern fin s = fin .matched
      { s with
        rxIn := rest, trace := s.trace ++ [.rx (.bytes xs)], polls := s.polls + 1, log := s.log ++ xs } := by
  rw [matchPoll, rxRead_cons hq hx]
  exact afterRead_match fin _ pattern hm

/-! ## The obligations -/

/-- Settles O36, by where the instruction's bits stand: on the request port, in a frame, or in a received chunk. -/
theorem decodeOfEncode : Obligations.DecodeOfEncode := by
  intro i hwf
  cases hr : encodeRequest i with
  | some w => simp only [encode, hr, decode, decodeRequest_of_encodeRequest hr]
  | none =>
    cases hf : encodeFrame Config.standard i with
    | some bs => simp only [encode, hr, hf, decode, decodeFrame_of_encodeFrame hf hwf]
    | none => rw [eq_patternStatusAnswer hr hf]; rfl

/-- Settles O21: the row's meaning is the poll of the request in REQ, which reads the waiting chunk and tests it. -/
theorem patternRowIsTheMatchersPoll : Obligations.PatternRowIsTheMatchersPoll := by
  intro s i hb hp hc hd
  have hrow : exec .patternStatusAnswer s = matcherPoll i s := exec_patternStatusAnswer hb hp hc hd
  refine ⟨?_, ?_⟩
  · rintro (rfl | ⟨n, d, rfl⟩) <;> exact hrow
  · rintro n d a rest xs rfl hq hx hm
    have hpoll : matcherPoll (.matchResponse n d) s = .next (matchPoll s.cfg.statusAnswer matchReturn s) :=
      execMatchResponse_poll hp n d
    rw [hrow, hpoll, hc, matchPoll_match hq hx hm]
    rfl

/-- Settles O34: the quotients and remainders of the word are its fields. -/
theorem decodeChecksInOrder : Obligations.DecodeChecksInOrder := by
  intro w
  have hzero (x : BitVec 4) : x.toNat = 0 ↔ x = 0 := BitVec.toNat_inj (y := 0)
  rw [← fieldA_eq_ofNat, ← fieldB_eq_ofNat, ← fieldOp_toNat, ← fieldRsv_toNat]
  simp only [ne_eq, hzero]
  refine ⟨decodeRequest_opZero, fun hop hr => ?_, fun hop hr hz => ?_, fun hop hr hz => ?_⟩
  all_goals obtain ⟨i, hi, hd⟩ := decodeRequest_opNonzero hop
  · rw [hd, if_pos hr]
  · rw [hd, if_neg (not_not_intro hr), if_pos hz]
  · exact ⟨i, decodeRequest_eq_ok_iff.mpr ⟨hr, hz, hi⟩, hi⟩

/-- Settles O35: the checks are those of `DecodeChecksInOrder`, and each illegal word raises. -/
theorem illegalRequestRaises : Obligations.IllegalRequestRaises := by
  intro s hc hr hb
  obtain ⟨hop, hrsv, hmbz, -⟩ := decodeChecksInOrder s.req
  exact ⟨fun h => step_illegal hc hr hb (hop h), fun h h' => step_illegal hc hr hb (hrsv h h'),
    fun h h' h'' => step_illegal hc hr hb (hmbz h h' h'')⟩

/-- Settles O37: a word that passes the checks has RSV 0 and no bit outside its operands. -/
theorem encodeOfDecodedRequest : Obligations.EncodeOfDecodedRequest := by
  intro w i h
  have he : encodeRequest i = some w := decodeRequest_iff_encodeRequest.mp h
  exact ⟨he, wf_of_encodeRequest he⟩

/-- Settles O38: the reader checks the id's nibble and the payload's length, and drops no byte. -/
theorem encodeOfDecodedFrame : Obligations.EncodeOfDecodedFrame :=
  fun _ _ _ h => ⟨encodeFrame_of_decodeFrame h, decodeFrame_wf h⟩

/-- Settles O39: the decoders run on the ten words. -/
theorem specWordsDecode : Obligations.SpecWordsDecode := by
  unfold Obligations.SpecWordsDecode
  decide

/-- Settles O40: at the first line and at a delay no row is due. -/
theorem stepRunsTheDecodedRequest : Obligations.StepRunsTheDecodedRequest := by
  intro s i hc hr hb hd hs
  have hw : wireInstr s.tick = none := hs.elim wireInstr_start wireInstr_wait
  rw [step_low hc hr, stepPhase_busy (s := s.tick) hb, stepBusy_ok (s := s.tick) hd, hw, Option.getD_none]

end Sys2Proof.Machine

/-! The unit converter (40_conversion.md): a request's only word, the range checks, the pulse width and its laws, the
speed units, and the split of a 16-bit value. -/

namespace Sys2Proof.Machine

/-! ## The word, and the operand validation -/

/-- A request has one word: the one it is encoded as. -/
theorem decodeRequest_eq_ok_iff_eq {i : Instr} {v : ReqWord} (h : encodeRequest i = some v) (w : ReqWord) :
    decodeRequest w = .ok i ↔ w = v := by
  rw [decodeRequest_iff_encodeRequest, h, Option.some_inj, eq_comm]

/-- A failing check raises its info, whatever the checks after it say (60_exceptions.md R203). -/
theorem validated_out {out : Bool} (h : out = true) (info : Byte) (rest : List (Bool × Byte)) (s : State)
    (go : State → State) : validated ((out, info) :: rest) s go =
      { s with phase := .done, res := Result.error .validationError info } := by
  subst h
  rfl

/-- A check that passes leaves the decision to the checks after it. -/
theorem validated_in {out : Bool} (h : out = false) (info : Byte) (rest : List (Bool × Byte)) (s : State)
    (go : State → State) : validated ((out, info) :: rest) s go = validated rest s go := by
  subst h
  rfl

theorem validated_nil (s : State) (go : State → State) : validated [] s go = go s := rfl

/-- The one check of an operation passes, and it goes on to its result. -/
theorem validated_finish {out : Bool} (h : out = false) (info : Byte) (r : Result) (s : State) :
    validated [(out, info)] s (finish r) = { s with phase := .done, res := r } := by
  rw [validated_in h, validated_nil, finish_eq]

theorem idOut_eq_true {c : Config} {id : Byte} : idOut c id = true ↔ c.servoIdMax.toNat < id.toNat := decide_eq_true_iff

theorem idOut_eq_false {c : Config} {id : Byte} : idOut c id = false ↔ id.toNat ≤ c.servoIdMax.toNat :=
  decide_eq_false_iff_not.trans Nat.not_lt

theorem angleOut_eq_true {c : Config} {angle : Nat} : angleOut c angle = true ↔ c.angleMax.toNat < angle :=
  decide_eq_true_iff

theorem angleOut_eq_false {c : Config} {angle : Nat} : angleOut c angle = false ↔ angle ≤ c.angleMax.toNat :=
  decide_eq_false_iff_not.trans Nat.not_lt

theorem speedOut_eq_true {c : Config} {speed : Nat} :
    speedOut c speed = true ↔ speed < c.speedMin.toNat ∨ c.speedMax.toNat < speed := by
  simp only [speedOut, Bool.or_eq_true, decide_eq_true_eq]

theorem speedOut_eq_false {c : Config} {speed : Nat} :
    speedOut c speed = false ↔ c.speedMin.toNat ≤ speed ∧ speed ≤ c.speedMax.toNat := by
  simp only [speedOut, Bool.or_eq_false_iff, decide_eq_false_iff_not, Nat.not_lt]

/-! ## The converter's functions -/

/-- The formula of 40_conversion.md R100 under the values of 00_scope.md R7, where it always fits 16 bits. -/
theorem pulseOf_withOpen (p : AgPayload) (m : Nat) {angle : Nat} (h : angle ≤ 180) :
    (pulseOf (Config.withOpen p m) angle).toNat = 500 + (200 * max angle 7 + 9) / 18 := by
  have hexact : exactPulse (Config.withOpen p m) angle = 500 + (200 * max angle 7 + 9) / 18 := rfl
  rw [pulseOf_toNat (by omega), hexact]

/-- Rounding to the nearest integer is adding one half and rounding down: `n / 0.09 + 1 / 2 = (200 n + 9) / 18`. -/
theorem round_div_resolution (n : Nat) : round ((n : ℚ) / (9 / 100)) = (((200 * n + 9) / 18 : Nat) : ℤ) := by
  have hsum : (n : ℚ) / (9 / 100) + 1 / 2 = ((200 * n + 9 : Nat) : ℚ) / (18 : Nat) := by
    push_cast
    ring
  rw [round_eq, hsum, Rat.floor_natCast_div_natCast, Int.natCast_ediv]

theorem unitsOf_toNat (c : Config) {speed : Nat} (h : speed < 65536) :
    (unitsOf c speed).toNat = speed / c.speedDiv.toNat := by
  rw [unitsOf, BitVec.toNat_ofNat, Nat.mod_eq_of_lt (lt_of_le_of_lt (Nat.div_le_self _ _) h)]

/-! ## The obligations -/

/-- Settles O6: `max(angle, 7) / 0.09` rounded is the formula's quotient by 18. -/
theorem pulseOfIsTheRoundedQuotient : Obligations.PulseOfIsTheRoundedQuotient := by
  intro p m angle h
  rw [pulseOf_withOpen p m h, round_div_resolution, Nat.cast_add, add_comm, Nat.cast_ofNat]

/-- Settles O7: one degree more adds 200 to the formula's dividend, more than the divisor 18; below 7 the dividend is
that of 7. -/
theorem pulseOfIncreasesAboveTheClamp : Obligations.PulseOfIncreasesAboveTheClamp := by
  refine fun p m => ⟨fun a b ha hab hb => ?_, fun a ha => BitVec.eq_of_toNat_eq ?_⟩
  · rw [pulseOf_withOpen p m (by omega), pulseOf_withOpen p m hb, max_eq_left ha, max_eq_left (by omega)]
    omega
  · rw [pulseOf_withOpen p m (by omega), pulseOf_withOpen p m (by omega), max_eq_right ha, max_self]

/-- Settles O9, by the quotient and the remainder that the two bytes are. -/
theorem combineInvertsSplit : Obligations.CombineInvertsSplit :=
  ⟨fun v => ⟨high_toNat v, low_toNat v, combine_split v⟩,
    fun hi lo => ⟨combine_toNat hi lo, Prod.ext (high_combine hi lo) (low_combine hi lo)⟩⟩

/-- Settles O1, by whether the angle check passes. -/
theorem convAngleReturnsPulseWidth : Obligations.ConvAngleReturnsPulseWidth := fun _ s =>
  ⟨decodeRequest_eq_ok_iff_eq rfl,
    fun h => congrArg Host.Outcome.next (validated_finish (angleOut_eq_false.mpr h) infoAngle _ s),
    fun h => congrArg Host.Outcome.next (validated_out (angleOut_eq_true.mpr h) infoAngle [] s _)⟩

/-- Settles O2, by whether the speed check passes; either bound can fail it. -/
theorem convSpeedReturnsSpeedUnits : Obligations.ConvSpeedReturnsSpeedUnits := fun _ s =>
  ⟨decodeRequest_eq_ok_iff_eq rfl,
    fun h h' => congrArg Host.Outcome.next (validated_finish (speedOut_eq_false.mpr ⟨h, h'⟩) infoSpeed _ s),
    fun h => congrArg Host.Outcome.next (validated_out (speedOut_eq_true.mpr h) infoSpeed [] s _)⟩

/-- Settles O3: the high byte is the quotient by 256 and the low byte the remainder. -/
theorem split16ReturnsTheTwoBytes : Obligations.Split16ReturnsTheTwoBytes := by
  intro value s
  refine ⟨decodeRequest_eq_ok_iff_eq rfl, ?_⟩
  rw [← high_eq_ofNat, ← low_eq_ofNat]
  rfl

/-- Settles O4: the value is the id, widened to 16 bits. -/
theorem idByteReturnsTheId : Obligations.IdByteReturnsTheId := by
  intro id s
  rw [BitVec.ofNat_toNat]
  exact ⟨decodeRequest_eq_ok_iff_eq rfl,
    fun h => congrArg Host.Outcome.next (validated_finish (idOut_eq_false.mpr h) infoId _ s),
    fun h => congrArg Host.Outcome.next (validated_out (idOut_eq_true.mpr h) infoId [] s _)⟩

/-- Settles O5: the formula is `exactPulse`, and under the values of R7 it is `500 + (200 max(angle, 7) + 9) div 18`. -/
theorem pulseOfIsTheIntegerFormula : Obligations.PulseOfIsTheIntegerFormula := by
  refine ⟨fun c angle _ hfits => pulseOf_toNat hfits, fun p m angle h => ?_⟩
  rw [pulseOf_withOpen p m h]
  omega

/-- Settles O8: a speed has 8 bits, so its quotient fits 16. -/
theorem unitsOfIsTheFloorOfTheQuotient : Obligations.UnitsOfIsTheFloorOfTheQuotient := by
  refine ⟨fun c speed _ hmax _ => unitsOf_toNat c ?_, fun p m speed hmin hmax => ?_⟩
  · have hbyte : c.speedMax.toNat < 256 := c.speedMax.isLt
    omega
  · have hunits : (unitsOf (Config.withOpen p m) speed).toNat = speed / 9 := unitsOf_toNat _ (by omega)
    rw [hunits]
    omega

end Sys2Proof.Machine

/-! The frame encoder (41_frame_encoder.md): the frames' lengths, the encoder's operations, and who may use the TX and
the RX port. -/

namespace Sys2Proof.Machine

/-! ## The lengths of the frames (30_encoding.md R75) -/

theorem setspeedBytes_length (c : Config) (id : Byte) (units : Half) : (setspeedBytes c id units).length = 5 := rfl

theorem movetoBytes_length (c : Config) (id : Byte) (pw : Half) : (movetoBytes c id pw).length = 5 := rfl

theorem actiongroupBytes_length (c : Config) : (actiongroupBytes c).length = 2 + c.agPayload.bytes.length :=
  Nat.add_comm _ 2

theorem stoprecoverBytes_length {c : Config} (h : configWf c = true) (mode : StopMode) :
    (stoprecoverBytes c mode).length = 5 := by
  obtain ⟨-, -, -, hstop, -⟩ := (configWf_iff c).mp h
  rw [stoprecoverBytes, List.length_append, hstop, List.length_cons, List.length_singleton]

theorem statusqueryBytes_length {c : Config} (h : configWf c = true) : (statusqueryBytes c).length = 5 := by
  obtain ⟨-, hquery, -⟩ := (configWf_iff c).mp h
  exact hquery

/-! ## The operands' validation, and the frame returned -/

theorem unitsOut_eq_true {c : Config} {units : Half} :
    unitsOut c units = true ↔ units.toNat < c.unitsMin.toNat ∨ c.unitsMax.toNat < units.toNat := by
  simp only [unitsOut, Bool.or_eq_true, decide_eq_true_eq]

theorem unitsOut_eq_false {c : Config} {units : Half} :
    unitsOut c units = false ↔ c.unitsMin.toNat ≤ units.toNat ∧ units.toNat ≤ c.unitsMax.toNat := by
  simp only [unitsOut, Bool.or_eq_false_iff, decide_eq_false_iff_not, Nat.not_lt]

theorem pwOut_eq_true {c : Config} {pw : Half} :
    pwOut c pw = true ↔ pw.toNat < c.pwMin.toNat ∨ c.pwMax.toNat < pw.toNat := by
  simp only [pwOut, Bool.or_eq_true, decide_eq_true_eq]

theorem pwOut_eq_false {c : Config} {pw : Half} :
    pwOut c pw = false ↔ c.pwMin.toNat ≤ pw.toNat ∧ pw.toNat ≤ c.pwMax.toNat := by
  simp only [pwOut, Bool.or_eq_false_iff, decide_eq_false_iff_not, Nat.not_lt]

theorem returnFrame_eq (f : List Byte) (s : State) :
    returnFrame f s = { s with phase := .done, frame := f, res := Result.okFrame f } := rfl

section
variable {out₁ out₂ : Bool} (h₁ : out₁ = false) (info₁ info₂ : Byte) (s : State)
include h₁

/-- The second check decides once the first has passed. -/
theorem validated_second_out (h₂ : out₂ = true) (go : State → State) :
    validated [(out₁, info₁), (out₂, info₂)] s go =
      { s with phase := .done, res := Result.error .validationError info₂ } := by
  rw [validated_in h₁, validated_out h₂]

/-- Both checks of an encoder operation pass, and it returns its frame. -/
theorem validated_returnFrame (h₂ : out₂ = false) (f : List Byte) :
    validated [(out₁, info₁), (out₂, info₂)] s (returnFrame f) =
      { s with phase := .done, frame := f, res := Result.okFrame f } := by
  rw [validated_in h₁, validated_in h₂, validated_nil, returnFrame_eq]

end

/-! ## Who writes and who reads -/

theorem Records.of_tx {s : State} {writes reads : Prop} {f : List Byte} {ok : Bool}
    (h : Records s writes reads [.tx f ok]) : writes ∧ f = s.frame := by
  rcases h with h | ⟨hw, -, ok', h⟩ | ⟨-, ⟨c, h⟩ | ⟨d, h⟩⟩
  · cases h
  · cases h; exact ⟨hw, rfl⟩
  · cases h
  · cases h

theorem Records.of_rx {s : State} {writes reads : Prop} {c : Chunk} (h : Records s writes reads [.rx c]) : reads := by
  rcases h with h | ⟨-, -, ok, h⟩ | ⟨hr, -⟩
  · cases h
  · cases h
  · exact hr

theorem deliver_records (s : State) :
    (deliver s).trace = s.trace ++ [] ∨ (deliver s).trace = s.trace ++ [.result s.res] := by
  rcases deliver_cases s with ⟨-, e⟩ | ⟨-, e⟩ | ⟨-, e⟩ <;> rw [e]
  · exact .inr rfl
  · exact .inl (by simp)
  · exact .inl (by simp)

/-- What a step records: nothing, a delivered result, or in BUSY what REQ's operation may record. -/
theorem step_records {s t : State} (h : step s = .next t) : ∃ es, t.trace = s.trace ++ es ∧
    (es = [] ∨ es = [.result s.res] ∨ (s.phase = .busy ∧ Records s (Transmits s) (Reads s) es)) := by
  obtain ⟨-, ⟨k, b, -, rfl⟩ | ⟨-, -, rfl⟩ | ⟨-, hp, hb⟩ | ⟨-, -, rfl⟩⟩ := step_cases h
  · exact ⟨[], same_append_nil _, .inl rfl⟩
  · exact ⟨[], by simp [accept_trace], .inl rfl⟩
  · obtain ⟨es, hm, hrec⟩ := stepBusy_moves hb
    exact ⟨es, hm.trace, .inr (.inr ⟨hp, hrec⟩)⟩
  · rcases deliver_records s.tick with e | e
    · exact ⟨[], e, .inl rfl⟩
    · exact ⟨_, e, .inr (.inl rfl)⟩

/-- An event that is no result comes from the operation in REQ. -/
theorem step_records_port {s t : State} {e : Event} (h : step s = .next t) (ht : t.trace = s.trace ++ [e])
    (he : ∀ r, e ≠ .result r) : s.phase = .busy ∧ Records s (Transmits s) (Reads s) [e] := by
  obtain ⟨es, htrace, hes⟩ := step_records h
  obtain rfl : es = [e] := List.append_cancel_left (htrace.symm.trans ht)
  rcases hes with hnil | hres | hbusy
  · cases hnil
  · exact absurd (List.singleton_inj.mp hres) (he _)
  · exact hbusy

/-! ## The obligations -/

/-- Settles O46: outside BUSY a step records at most a result, and in BUSY a `Tx` is the write of FRAME by one of the
operations that write, an `Rx` the poll of one that reads. -/
theorem onlySessionOperationsTransmit : Obligations.OnlySessionOperationsTransmit := by
  refine fun s t h => ⟨fun f ok ht => ?_, fun c ht => ?_⟩
  · obtain ⟨hb, hrec⟩ := step_records_port h ht (fun _ => nofun)
    obtain ⟨hwrites, hframe⟩ := hrec.of_tx
    exact ⟨hb, hframe, hwrites⟩
  · obtain ⟨hb, hrec⟩ := step_records_port h ht (fun _ => nofun)
    exact ⟨hb, hrec.of_rx⟩

/-- Settles O32: a frame's row is its write where that is due, and each of the three conditions says that it is not. -/
theorem noRawSend : Obligations.NoRawSend := by
  intro s f bytes hf hnot
  rw [exec_frame hf]
  refine if_neg ?_
  rintro ⟨hbusy, hwrites, hframe⟩
  rcases hnot with h | h | h
  · exact h hbusy
  · exact Bool.false_ne_true (h.symm.trans hwrites)
  · exact h hframe

/-- Settles O10, by which of the two checks fails first; the second is that of the units. -/
theorem encSetspeedReturnsTheFrame : Obligations.EncSetspeedReturnsTheFrame := fun _ _ s =>
  ⟨decodeRequest_eq_ok_iff_eq rfl,
    fun hid => congrArg Host.Outcome.next (validated_out (idOut_eq_true.mpr hid) infoId _ s _),
    fun hid hunits => congrArg Host.Outcome.next
      (validated_second_out (idOut_eq_false.mpr hid) infoId infoUnits s (unitsOut_eq_true.mpr hunits) _),
    fun hid hmin hmax => congrArg Host.Outcome.next
      (validated_returnFrame (idOut_eq_false.mpr hid) infoId infoUnits s (unitsOut_eq_false.mpr ⟨hmin, hmax⟩) _)⟩

/-- Settles O11, by which of the two checks fails first; the second is that of the pulse width. -/
theorem encMovetoReturnsTheFrame : Obligations.EncMovetoReturnsTheFrame := fun _ _ s =>
  ⟨decodeRequest_eq_ok_iff_eq rfl,
    fun hid => congrArg Host.Outcome.next (validated_out (idOut_eq_true.mpr hid) infoId _ s _),
    fun hid hpw => congrArg Host.Outcome.next
      (validated_second_out (idOut_eq_false.mpr hid) infoId infoPulse s (pwOut_eq_true.mpr hpw) _),
    fun hid hmin hmax => congrArg Host.Outcome.next
      (validated_returnFrame (idOut_eq_false.mpr hid) infoId infoPulse s (pwOut_eq_false.mpr ⟨hmin, hmax⟩) _)⟩

/-- Settles O12: each request is encoded as its word, and returns a frame of CFG without a check. -/
theorem encFixedFramesReturnTheirFrames : Obligations.EncFixedFramesReturnTheirFrames :=
  ⟨fun s => ⟨decodeRequest_eq_ok_iff_eq rfl, congrArg Host.Outcome.next (returnFrame_eq (actiongroupBytes s.cfg) s)⟩,
    fun mode s => ⟨decodeRequest_eq_ok_iff_eq rfl, decodeRequest_eq_ok_iff_eq rfl,
      congrArg Host.Outcome.next (returnFrame_eq (stoprecoverBytes s.cfg mode) s)⟩,
    fun s => ⟨decodeRequest_eq_ok_iff_eq rfl, congrArg Host.Outcome.next (returnFrame_eq (statusqueryBytes s.cfg) s)⟩⟩

/-- Settles O13: the first byte and the bounds are those of a frame that fits, and each kind has its length. -/
theorem everyFrameStartsWithTheHeader : Obligations.EveryFrameStartsWithTheHeader := by
  intro c id v mode h
  obtain ⟨hhead, hmin, hmax⟩ := actiongroupBytes_fits c
  exact ⟨⟨(setspeedBytes_fits c id v).1, setspeedBytes_length c id v⟩,
    ⟨(movetoBytes_fits c id v).1, movetoBytes_length c id v⟩,
    ⟨(stoprecoverBytes_fits h mode).1, stoprecoverBytes_length h mode⟩,
    ⟨(statusqueryBytes_fits h).1, statusqueryBytes_length h⟩,
    ⟨hhead, hmin, actiongroupBytes_length c, hmax⟩⟩

end Sys2Proof.Machine

/-! The response matcher (42_response_matcher.md): the match tests as substring tests, and a run as rounds of a read and
a delay. -/

namespace Sys2Proof.Machine

/-! ## The match tests (42_response_matcher.md R142, R143) -/

theorem hasRun_iff_infix {α : Type} [DecidableEq α] {p xs : List α} : hasRun p xs = true ↔ p <:+: xs := by
  rw [hasRun_iff]
  exact ⟨fun ⟨pre, post, h⟩ => ⟨pre, post, h.symm⟩, fun ⟨pre, post, h⟩ => ⟨pre, post, h.symm⟩⟩

/-- A run of neighbours is what stands between two cuts. -/
theorem infix_iff_take_drop {α : Type} {p xs : List α} :
    p <:+: xs ↔ ∃ k, k + p.length ≤ xs.length ∧ (xs.drop k).take p.length = p := by
  constructor
  · rintro ⟨pre, post, rfl⟩
    exact ⟨pre.length, by simp only [List.length_append]; omega, by simp⟩
  · rintro ⟨k, -, h⟩
    rw [← h]
    exact (List.take_prefix _ _).isInfix.trans (List.drop_suffix k xs).isInfix

/-- The hex text of neighbouring bytes is a run of neighbouring digits: every aligned match is one at an even offset. -/
theorem hexText_infix {p xs : List Byte} (h : p <:+: xs) : hexText p <:+: hexText xs := by
  obtain ⟨pre, post, rfl⟩ := h
  exact ⟨hexText pre, hexText post, by rw [hexText_append, hexText_append]⟩

theorem chunkMatches_byte_iff {xs p : List Byte} : chunkMatches .byte xs p = true ↔ p <:+: xs := hasRun_iff_infix

theorem chunkMatches_nibble_iff {xs p : List Byte} : chunkMatches .nibble xs p = true ↔ hexText p <:+: hexText xs :=
  hasRun_iff_infix

/-! ## The lines of MATCH_RESPONSE -/

theorem execMatchResponse_start {s : State} (hs : s.stepAt = .start) (n : Byte) (d : Half) :
    execMatchResponse n d s = .next (matchStart n matchReturn s) := by
  simp only [execMatchResponse, hs]

theorem execMatchResponse_wait {s : State} (hs : s.stepAt = .wait) (n : Byte) (d : Half) :
    execMatchResponse n d s = .next (matchWait n d matchReturn s) := by
  simp only [execMatchResponse, hs]

theorem matchReturn_eq (o : MatchOutcome) (s : State) :
    matchReturn o s = { s with phase := .done, res := Result.ofMatch o s.log s.polls } := rfl

/-- A poll whose read is answered goes on with the chunk read. -/
theorem matchPoll_cons {s : State} {a : RxAnswer} {rest : List RxAnswer} {c : Chunk} (hq : s.rxIn = a :: rest)
    (hc : chunkOf s.cfg.chunkMax a = some c) (pattern : List Byte) (fin : MatchOutcome → State → State) :
    matchPoll pattern fin s = afterRead pattern fin c { s with rxIn := rest, trace := s.trace ++ [.rx c] } :=
  rxRead_cons hq hc _

section
variable {pattern : List Byte} {fin : MatchOutcome → State → State} {s : State} {a : RxAnswer} {rest : List RxAnswer}
  (hq : s.rxIn = a :: rest)
include hq

/-- A chunk without a match is counted and logged, and the delay is next. -/
theorem matchPoll_miss {xs : List Byte} (hx : chunkOf s.cfg.chunkMax a = some (.bytes xs))
    (hm : chunkMatches s.cfg.matchAlign xs pattern = false) :
    matchPoll pattern fin s =
      { s with
        rxIn := rest, trace := s.trace ++ [.rx (.bytes xs)], polls := s.polls + 1, log := s.log ++ xs
        stepAt := .wait } := by
  rw [matchPoll_cons hq hx]
  exact afterRead_miss fin _ pattern hm

theorem matchPoll_empty (hx : chunkOf s.cfg.chunkMax a = some .empty) :
    matchPoll pattern fin s =
      { s with rxIn := rest, trace := s.trace ++ [.rx .empty], polls := s.polls + 1, stepAt := .wait } := by
  rw [matchPoll_cons hq hx, afterRead_empty]

/-- A read error ends the run, counted but with nothing logged. -/
theorem matchPoll_readError (hx : chunkOf s.cfg.chunkMax a = some .readError) :
    matchPoll pattern fin s = fin .transportFailure
      { s with rxIn := rest, trace := s.trace ++ [.rx .readError], polls := s.polls + 1 } := by
  rw [matchPoll_cons hq hx, afterRead_readError]

end

/-! ## A matcher run, poll by poll -/

/-- A chunk that ends a run, and with which outcome (42_response_matcher.md R140): the ones that do not are those of
`goesOn`. -/
inductive EndsRun (c : Config) : Chunk → MatchOutcome → Prop
  | hit {xs : List Byte} (h : chunkMatches c.matchAlign xs c.statusAnswer = true) : EndsRun c (.bytes xs) .matched
  | readError : EndsRun c .readError .transportFailure

/-- The state once the chunks `cs` were read: counted in POLLS and appended to LOG, with the events `es` recorded, the
answers `rest` still to come and STEP at `p`. -/
def State.polled (s : State) (es : List Event) (cs : List Chunk) (rest : List RxAnswer) (p : SeqStep) : State :=
  { s with
    rxIn := rest, trace := s.trace ++ es, polls := s.polls + BitVec.ofNat 8 cs.length, log := s.log ++ chunkBytes cs
    stepAt := p }

theorem chunkBytes_append (cs ds : List Chunk) : chunkBytes (cs ++ ds) = chunkBytes cs ++ chunkBytes ds := by
  induction cs with
  | nil => rfl
  | cons c cs ih => cases c <;> simp [chunkBytes, ih]

@[simp] theorem State.polled_nil (s : State) : s.polled [] [] s.rxIn s.stepAt = s := by
  simp [State.polled, chunkBytes]

theorem State.polled_polled (s : State) (es fs : List Event) (cs ds : List Chunk) (rest rest' : List RxAnswer)
    (p q : SeqStep) : (s.polled es cs rest p).polled fs ds rest' q = s.polled (es ++ fs) (cs ++ ds) rest' q := by
  simp [State.polled, chunkBytes_append, BitVec.add_assoc, BitVec.ofNat_add]

theorem State.polled_polls_toNat {s : State} {cs : List Chunk} (h : s.polls.toNat + cs.length < 256)
    (es : List Event) (rest : List RxAnswer) (p : SeqStep) :
    (s.polled es cs rest p).polls.toNat = s.polls.toNat + cs.length := by
  simp only [State.polled, BitVec.toNat_add, BitVec.toNat_ofNat]
  omega

section
variable {s : State} {fin : MatchOutcome → State → State} {a : RxAnswer} {rest : List RxAnswer} {c : Chunk}

/-- A poll whose chunk neither matches nor errs leads to the delay. -/
theorem matchPoll_goesOn (hq : s.rxIn = a :: rest) (hc : chunkOf s.cfg.chunkMax a = some c) (hg : goesOn s.cfg c) :
    matchPoll s.cfg.statusAnswer fin s = s.polled [.rx c] [c] rest .wait := by
  cases c with
  | bytes xs => rw [matchPoll_miss hq hc hg]; simp [State.polled, chunkBytes]
  | empty => rw [matchPoll_empty hq hc]; simp [State.polled, chunkBytes]
  | readError => exact hg.elim

/-- A poll whose chunk matches or errs ends the run. -/
theorem matchPoll_ends {o : MatchOutcome} (hq : s.rxIn = a :: rest) (hc : chunkOf s.cfg.chunkMax a = some c)
    (he : EndsRun s.cfg c o) :
    matchPoll s.cfg.statusAnswer fin s = fin o (s.polled [.rx c] [c] rest s.stepAt) := by
  cases he with
  | hit h => rw [matchPoll_match hq hc h]; simp [State.polled, chunkBytes]
  | readError => rw [matchPoll_readError hq hc]; simp [State.polled, chunkBytes]

end

/-- The operation `i` runs under the configuration `cfg`, and no reset is coming. -/
structure Underway (cfg : Config) (i : Instr) (s : State) : Prop where
  cfg_eq : s.cfg = cfg
  wf : configWf cfg = true
  noReset : s.rstIn = []
  busy : s.phase = .busy
  request : decodeRequest s.req = .ok i

theorem Accepted.underway {s : State} {i : Instr} (h : Accepted s i) : Underway s.cfg i s :=
  ⟨rfl, h.config, h.noReset, h.busy, h.request⟩

section
variable {cfg : Config} {i : Instr} {s : State}

theorem Underway.step_eq (h : Underway cfg i s) : step s = exec ((wireInstr s).getD i) s := by
  obtain ⟨rfl, hwf, hr, hb, hd⟩ := h
  rw [step_low hwf (by simp only [State.rstNow, hr]), tick_nil hr, stepPhase_busy hb, stepBusy_ok hd]

theorem Underway.step_start (h : Underway cfg i s) (hs : s.stepAt = .start) : step s = exec i s := by
  rw [h.step_eq, wireInstr_start hs, Option.getD_none]

theorem Underway.step_wait (h : Underway cfg i s) (hs : s.stepAt = .wait) : step s = exec i s := by
  rw [h.step_eq, wireInstr_wait hs, Option.getD_none]

/-- At a poll a step runs the request, also by way of the status answer's row. -/
theorem Underway.step_poll (h : Underway cfg i s) (hi : matcherPoll i s = exec i s) (hs : s.stepAt = .poll) :
    step s = exec i s := by
  rw [h.step_eq]
  cases hw : wireInstr s with
  | none => rfl
  | some f =>
    rcases wireInstr_cases hw with ⟨hwrites, -⟩ | ⟨-, hc, rfl⟩
    · rw [hs] at hwrites; cases hwrites
    · rw [Option.getD_some, exec_patternStatusAnswer h.busy hs hc h.request, hi]

/-- A read changes nothing that says which operation runs. -/
theorem Underway.polled (h : Underway cfg i s) (es : List Event) (cs : List Chunk) (rest : List RxAnswer)
    (p : SeqStep) : Underway cfg i (s.polled es cs rest p) :=
  ⟨h.cfg_eq, h.wf, h.noReset, h.busy, h.request⟩

theorem Underway.setStep (h : Underway cfg i s) (p : SeqStep) : Underway cfg i (s.setStep p) :=
  ⟨h.cfg_eq, h.wf, h.noReset, h.busy, h.request⟩

/-- A run starts with POLLS and LOG cleared. -/
theorem Underway.cleared (h : Underway cfg i s) : Underway cfg i ((s.setPolls 0).setLog []) :=
  ⟨h.cfg_eq, h.wf, h.noReset, h.busy, h.request⟩

end

/-- The lines of the operation `i` under `cfg` are those of a matcher run with the budget `n` and the delay `d` that
returns by `fin` (42_response_matcher.md R140); where it is due, the status answer's row is its poll. -/
structure RunsMatcher (cfg : Config) (i : Instr) (n : Byte) (d : Half) (fin : MatchOutcome → State → State) : Prop where
  row : ∀ s : State, matcherPoll i s = exec i s
  poll : ∀ s : State, s.stepAt = .poll → exec i s = .next (matchPoll s.cfg.statusAnswer fin s)
  wait : ∀ s : State, s.cfg = cfg → s.stepAt = .wait → exec i s = .next (matchWait n d fin s)

theorem matchResponse_runsMatcher (cfg : Config) (n : Byte) (d : Half) :
    RunsMatcher cfg (.matchResponse n d) n d matchReturn :=
  ⟨fun _ => rfl, fun _ hs => execMatchResponse_poll hs n d, fun _ _ hs => execMatchResponse_wait hs n d⟩

section
variable {cfg : Config} {i : Instr} {n : Byte} {d : Half} {fin : MatchOutcome → State → State} {s : State}
  {answers rest : List RxAnswer} {pre : List Chunk} {a : RxAnswer} {c : Chunk}
  (hm : RunsMatcher cfg i n d fin)
include hm

/-- With polls left the loop's next step is a poll. -/
theorem Underway.step_matchLoop (h : Underway cfg i s) (hn : s.polls ≠ n) :
    step (matchLoop n fin s) = .next (matchPoll s.cfg.statusAnswer fin (s.setStep .poll)) := by
  rw [matchLoop_left n fin s hn, (h.setStep .poll).step_poll (hm.row _) rfl, hm.poll _ rfl]
  rfl

/-- With polls left, a chunk that matches or errs ends the run in one step. -/
theorem Underway.lastPoll {o : MatchOutcome} (h : Underway cfg i s) (hn : s.polls ≠ n) (hq : s.rxIn = a :: rest)
    (hc : chunkOf cfg.chunkMax a = some c) (he : EndsRun cfg c o) :
    runSteps 1 (matchLoop n fin s) = .next (fin o (s.polled [.rx c] [c] rest .poll)) := by
  obtain rfl := h.cfg_eq
  rw [runSteps_succ (h.step_matchLoop hm hn)]
  exact congrArg Host.Outcome.next (matchPoll_ends (s := s.setStep .poll) hq hc he)

/-- With polls left, a chunk that neither matches nor errs leads back to the loop in two steps. -/
theorem Underway.round (h : Underway cfg i s) (hn : s.polls ≠ n) (hq : s.rxIn = a :: rest)
    (hc : chunkOf cfg.chunkMax a = some c) (hg : goesOn cfg c) :
    runSteps 2 (matchLoop n fin s) = .next (matchLoop n fin (s.polled (pollEvents d [c]) [c] rest .wait)) := by
  have hread : step (matchLoop n fin s) = .next (s.polled [.rx c] [c] rest .wait) := by
    obtain rfl := h.cfg_eq
    rw [h.step_matchLoop hm hn]
    exact congrArg Host.Outcome.next (matchPoll_goesOn (s := s.setStep .poll) hq hc hg)
  have hw := h.polled [.rx c] [c] rest .wait
  have hdelay := (hw.step_wait rfl).trans (hm.wait _ hw.cfg_eq rfl)
  have htrace : delayFor d (s.polled [.rx c] [c] rest .wait) = s.polled (pollEvents d [c]) [c] rest .wait := by
    simp [delayFor, State.record, State.polled, pollEvents]
  rw [runSteps_succ hread, runSteps_succ hdelay, matchWait, htrace]
  rfl

/-- Within the budget, chunks that neither match nor err lead back to the loop, in two steps each. -/
theorem Underway.rounds (h : Underway cfg i s) (hn : s.polls.toNat + pre.length ≤ n.toNat)
    (hq : s.rxIn = answers ++ rest) (hc : answers.map (chunkOf cfg.chunkMax) = pre.map some)
    (hg : ∀ c ∈ pre, goesOn cfg c) :
    ∃ p, runSteps (2 * pre.length) (matchLoop n fin s) =
      .next (matchLoop n fin (s.polled (pollEvents d pre) pre rest p)) := by
  induction pre generalizing s answers with
  | nil =>
    obtain rfl := List.map_eq_nil_iff.mp hc
    obtain rfl : s.rxIn = rest := hq
    exact ⟨s.stepAt, congrArg (fun t => Host.Outcome.next (matchLoop n fin t)) s.polled_nil.symm⟩
  | cons c cs ih =>
    obtain ⟨a, as, rfl, ha, has⟩ := List.map_eq_cons_iff.mp hc
    rw [List.cons_append] at hq
    rw [List.length_cons] at hn
    have hlt : s.polls.toNat < n.toNat := by omega
    have hround := h.round hm (fun e => hlt.ne (congrArg BitVec.toNat e)) hq ha (hg c List.mem_cons_self)
    have hpolls : (s.polled (pollEvents d [c]) [c] (as ++ rest) .wait).polls.toNat = s.polls.toNat + 1 :=
      toNat_succ_of_lt hlt
    obtain ⟨p, hp⟩ := ih (h.polled (pollEvents d [c]) [c] _ .wait) (by omega) rfl has
      fun c hmem => hg c (List.mem_cons_of_mem _ hmem)
    refine ⟨p, ?_⟩
    rw [List.length_cons, Nat.mul_succ, Nat.add_comm, runSteps_add _ hround, hp, State.polled_polled]
    rfl

/-- Within the budget, a chunk that matches or errs ends the run after those that do not. -/
theorem Underway.rounds_end {o : MatchOutcome} (h : Underway cfg i s) (hn : s.polls.toNat + pre.length < n.toNat)
    (hq : s.rxIn = answers ++ rest) (hc : answers.map (chunkOf cfg.chunkMax) = (pre ++ [c]).map some)
    (hg : ∀ c ∈ pre, goesOn cfg c) (he : EndsRun cfg c o) :
    runSteps (2 * pre.length + 1) (matchLoop n fin s) =
      .next (fin o (s.polled (pollEvents d pre ++ [.rx c]) (pre ++ [c]) rest .poll)) := by
  rw [List.map_append] at hc
  obtain ⟨as, last, rfl, has, hlast⟩ := List.map_eq_append_iff.mp hc
  obtain ⟨a, rfl, ha⟩ := List.map_eq_singleton_iff.mp hlast
  rw [List.append_assoc, List.singleton_append] at hq
  obtain ⟨p, hp⟩ := h.rounds hm hn.le hq has hg
  have hleft : (s.polled (pollEvents d pre) pre (a :: rest) p).polls ≠ n := fun e =>
    hn.ne ((State.polled_polls_toNat (hn.trans n.isLt) _ _ p).symm.trans (congrArg BitVec.toNat e))
  rw [runSteps_add 1 hp, (h.polled _ _ _ p).lastPoll hm hleft rfl ha he, State.polled_polled]

/-- Chunks that neither match nor err and spend the budget end the run. -/
theorem Underway.rounds_spend (h : Underway cfg i s) (hn : s.polls.toNat + pre.length = n.toNat)
    (hq : s.rxIn = answers ++ rest) (hc : answers.map (chunkOf cfg.chunkMax) = pre.map some)
    (hg : ∀ c ∈ pre, goesOn cfg c) :
    ∃ p, runSteps (2 * pre.length) (matchLoop n fin s) =
      .next (fin .unmatched (s.polled (pollEvents d pre) pre rest p)) := by
  obtain ⟨p, hp⟩ := h.rounds hm hn.le hq hc hg
  have hspent : (s.polled (pollEvents d pre) pre rest p).polls = n :=
    BitVec.eq_of_toNat_eq ((State.polled_polls_toNat (hn.trans_lt n.isLt) _ _ p).trans hn)
  exact ⟨p, by rw [hp, matchLoop_spent _ _ _ hspent]⟩

end

/-! ## The whole MATCH_RESPONSE -/

/-- The first step of an accepted MATCH_RESPONSE clears POLLS and LOG and enters the loop. -/
theorem Accepted.step_matchResponse {n : Byte} {d : Half} {s : State} (h : Accepted s (.matchResponse n d)) :
    step s = .next (matchLoop n matchReturn ((s.setPolls 0).setLog [])) :=
  (h.underway.step_start h.first).trans (execMatchResponse_start h.first n d)

/-- What a run that started with POLLS and LOG cleared returns (42_response_matcher.md R145, R147). -/
theorem matchReturn_polled_res (o : MatchOutcome) (s : State) (es : List Event) (cs : List Chunk)
    (rest : List RxAnswer) (p : SeqStep) :
    (matchReturn o (((s.setPolls 0).setLog []).polled es cs rest p)).res =
      Result.ofMatch o (chunkBytes cs) (BitVec.ofNat 8 cs.length) := by
  simp [matchReturn_eq, State.polled]

/-- A MATCH_RESPONSE that a chunk ends: its trace and its result. -/
theorem matchResponse_run_end {n : Byte} {d : Half} {s : State} {answers rest : List RxAnswer} {pre : List Chunk}
    {c : Chunk} {o : MatchOutcome} (h : Accepted s (.matchResponse n d)) (hq : s.rxIn = answers ++ rest)
    (hg : ∀ c ∈ pre, goesOn s.cfg c) (he : EndsRun s.cfg c o) (hn : pre.length < n.toNat)
    (hc : answers.map (chunkOf s.cfg.chunkMax) = (pre ++ [c]).map some) :
    ∃ t, runSteps (2 * pre.length + 2) s = .next t ∧ t.phase = .done ∧
      t.trace = s.trace ++ pollEvents d pre ++ [.rx c] ∧
      t.res = Result.ofMatch o (chunkBytes pre ++ chunkBytes [c]) (BitVec.ofNat 8 (pre.length + 1)) ∧
      t.rxIn = rest ∧ t.txIn = s.txIn ∧ t.line = s.line := by
  have hrun := h.underway.cleared.rounds_end (matchResponse_runsMatcher s.cfg n d) (by simpa using hn) hq hc hg he
  refine ⟨_, (runSteps_succ h.step_matchResponse).trans hrun, rfl, (List.append_assoc ..).symm, ?_, rfl, rfl, rfl⟩
  rw [matchReturn_polled_res, chunkBytes_append, List.length_append, List.length_singleton]

/-! ## The obligations -/

/-- Settles O15: the chunk's bytes around the pattern are what comes before and after index `i`. -/
theorem byteMatchIsAnAlignedSubstring : Obligations.ByteMatchIsAnAlignedSubstring := by
  intro xs p
  refine ⟨?_, fun hlen => ?_⟩
  · rw [chunkMatches_byte_iff, List.infix_iff_getElem?]
    refine exists_congr fun i => and_congr (by rw [Nat.add_comm]) (forall₂_congr fun j hj => ?_)
    rw [Nat.add_comm, List.getElem?_eq_getElem hj]
  · rw [← Bool.not_eq_true, chunkMatches_byte_iff]
    exact fun h => absurd h.length_le (Nat.not_le.mpr hlen)

/-- Settles O16: the test is on the hex texts, two digits a byte, and neighbouring bytes have neighbouring digits. -/
theorem nibbleMatchIsAHexTextSubstring : Obligations.NibbleMatchIsAHexTextSubstring := by
  refine ⟨fun xs p => ⟨?_, fun h => ?_⟩, by decide, by decide⟩
  · rw [chunkMatches_nibble_iff, infix_iff_take_drop, hexText_length, hexText_length]
  · exact chunkMatches_nibble_iff.mpr (hexText_infix (chunkMatches_byte_iff.mp h))

/-- Settles O17: the run's start enters the loop, whose head tests the budget. -/
theorem matchResponseStartsTheRun : Obligations.MatchResponseStartsTheRun := by
  intro n d s hs
  have hstart : exec (.matchResponse n d) s = .next (matchStart n matchReturn s) := execMatchResponse_start hs n d
  refine ⟨fun hn => ?_, ?_⟩
  · rw [hstart, matchStart_some n _ s hn]
  · rintro rfl
    rw [hstart, matchStart_none, matchReturn_eq]

/-- Settles O18, by the chunk that was read. -/
theorem matchResponsePollsOneChunk : Obligations.MatchResponsePollsOneChunk := by
  intro n d s a rest c hs hq hc
  have hpoll : exec (.matchResponse n d) s = .next (matchPoll s.cfg.statusAnswer matchReturn s) :=
    execMatchResponse_poll hs n d
  rw [hpoll]
  refine ⟨?_, ?_, ?_, ?_⟩
  · rintro xs rfl hm
    rw [matchPoll_match hq hc hm, matchReturn_eq]
  · rintro xs rfl hm
    rw [matchPoll_miss hq hc hm]
  · rintro rfl
    rw [matchPoll_empty hq hc]
  · rintro rfl
    rw [matchPoll_readError hq hc, matchReturn_eq]

/-- Settles O19: the delay is recorded, and the loop's head tests the budget. -/
theorem matchResponseWaitsThenLoops : Obligations.MatchResponseWaitsThenLoops := by
  intro n d s hs
  have hwait : exec (.matchResponse n d) s = .next (matchWait n d matchReturn s) := execMatchResponse_wait hs n d
  refine ⟨fun hp => ?_, ?_⟩
  · rw [hwait, matchWait_left n _ s d hp]
  · rintro rfl
    rw [hwait, matchWait_spent _ _ s d rfl, matchReturn_eq]

/-- Settles O20: the first step enters the loop, each chunk that neither matches nor errs costs a round of a poll and a
delay, and the run ends at the poll of the last chunk or with the budget spent. -/
theorem matchResponseRunHasItsTrace : Obligations.MatchResponseRunHasItsTrace := by
  refine ⟨fun n d => decodeRequest_eq_ok_iff_eq rfl, fun n d s answers rest pre h hq hg => ⟨?_, ?_, ?_⟩⟩
  · intro xs hn hm hc
    simpa [chunkBytes] using matchResponse_run_end h hq hg (.hit hm) hn hc
  · intro hn hc
    simpa [chunkBytes] using matchResponse_run_end h hq hg .readError hn hc
  · intro hn hc
    obtain ⟨p, hrun⟩ :=
      h.underway.cleared.rounds_spend (matchResponse_runsMatcher s.cfg n d) (by simpa using hn) hq hc hg
    refine ⟨_, (runSteps_succ h.step_matchResponse).trans hrun, rfl, rfl, ?_, rfl, rfl, rfl⟩
    rw [matchReturn_polled_res, hn, BitVec.ofNat_toNat, BitVec.setWidth_eq]

end Sys2Proof.Machine

/-! The session operations (43_session_ops.md): their lines, a run up to and past a write, and the whole of each; the
frames' rows where their operation is about to write them. -/

namespace Sys2Proof.Machine

/-! ## The lines of the operations -/

theorem execProbe_start {s : State} (hs : s.stepAt = .start) :
    exec .probe s = .next ((s.setFrame (statusqueryBytes s.cfg)).setStep .writeQuery) := by
  simp only [exec, execProbe, hs]

theorem execProbe_writeQuery {s : State} (hs : s.stepAt = .writeQuery) :
    exec .probe s = .next (txWrite s afterQuery) := by
  simp only [exec, execProbe, hs]

/-- PROBE's poll and delay are those of a matcher run with the budget and the delay of CFG. -/
theorem probe_runsMatcher (cfg : Config) :
    RunsMatcher cfg .probe cfg.probePolls cfg.probeIntervalMs probeReturn where
  row _ := rfl
  poll s hs := by simp only [exec, execProbe, hs]
  wait s hc hs := by simp only [exec, execProbe, hs, hc]

section
variable {s : State} (id angle speed : Byte)

theorem execMoveServo_start (hs : s.stepAt = .start) :
    exec (.moveServo id angle speed) s =
      .next (validated (moveChecks s.cfg id angle speed) s (readySpeed id speed)) := by
  simp only [exec, execMoveServo, hs]

theorem execMoveServo_writeSpeed (hs : s.stepAt = .writeSpeed) :
    exec (.moveServo id angle speed) s = .next (txWrite s (afterSpeed id angle)) := by
  simp only [exec, execMoveServo, hs]

theorem execMoveServo_writeMove (hs : s.stepAt = .writeMove) :
    exec (.moveServo id angle speed) s = .next (txWrite s (afterMove (pulseOf s.cfg angle.toNat))) := by
  simp only [exec, execMoveServo, hs]

end

theorem fireAndForget_start {s : State} (hs : s.stepAt = .start) (f : List Byte) :
    fireAndForget f s = .next ((s.setFrame f).setStep .writeOnly) := by
  simp only [fireAndForget, hs]

theorem fireAndForget_writeOnly {s : State} (hs : s.stepAt = .writeOnly) (f : List Byte) :
    fireAndForget f s = .next (txWrite s afterOnly) := by
  simp only [fireAndForget, hs]

/-- The operations of one write, each with its frame (43_session_ops.md R162 to R164). -/
inductive FiresFrame (c : Config) : Instr → List Byte → Prop
  | stop : FiresFrame c .emergencyStop (stoprecoverBytes c .stop)
  | recover : FiresFrame c .recover (stoprecoverBytes c .recover)
  | actionGroup : FiresFrame c .startActionGroup (actiongroupBytes c)

/-- The three operations and their frames, as the statements list them. -/
theorem firesFrame_of_bytes {c : Config} {i : Instr} {f : List Byte}
    (h : (i = .emergencyStop ∧ f = [c.header, c.codeStoprecover] ++ c.stopPayload) ∨
      (i = .recover ∧ f = [c.header, c.codeStoprecover] ++ c.stopPayload) ∨
      (i = .startActionGroup ∧ f = [c.header, c.codeActiongroup] ++ c.agPayload.bytes)) : FiresFrame c i f := by
  rcases h with ⟨rfl, rfl⟩ | ⟨rfl, rfl⟩ | ⟨rfl, rfl⟩
  · exact .stop
  · exact .recover
  · exact .actionGroup

theorem FiresFrame.exec_eq {s : State} {i : Instr} {f : List Byte} (h : FiresFrame s.cfg i f) :
    exec i s = fireAndForget f s := by
  cases h <;> rfl

theorem FiresFrame.atLine {s : State} {i : Instr} (h : FiresFrame s.cfg i s.frame) (hs : s.stepAt = .writeOnly) :
    AtLine s i := by
  generalize hf : s.frame = f at h
  cases h <;> exact ⟨hs, hf⟩

/-! ## What follows a write -/

/-- The lines after MOVE_SERVO's first write lead to the second, where the first succeeded or CFG goes on without it. -/
theorem afterSpeed_goesOn {id angle : Byte} {ok : Bool} {s : State}
    (h : ok = false → s.cfg.moveOnSpeedFail = true) :
    afterSpeed id angle ok s = readyMove id angle (s.setWfail (s.wfail || !ok)) := by
  cases ok with
  | true => rw [Bool.not_true, Bool.or_false]; rfl
  | false => rw [Bool.not_false, Bool.or_true]; exact if_pos (h rfl)

theorem afterSpeed_raises {id angle : Byte} {s : State} (h : s.cfg.moveOnSpeedFail = false) :
    afterSpeed id angle false s =
      { s with phase := .done, res := Result.error .transportWriteFailure infoFirstWrite } := by
  simp only [afterSpeed, h, Bool.false_eq_true, if_false, raise_eq]

/-- What MOVE_SERVO returns after its second write (43_session_ops.md R161 step 4): both writes must have succeeded, and
WFAIL says that the first did not. -/
def moveResult (pw : Half) (wfail ok : Bool) : Result :=
  if ok then if wfail then Result.error .transportWriteFailure infoFirstWrite else Result.okValue pw
  else Result.error .transportWriteFailure (if wfail then infoBothWrites else infoSecondWrite)

theorem afterMove_eq (pw : Half) (ok : Bool) (s : State) :
    afterMove pw ok s = { s with phase := .done, res := moveResult pw s.wfail ok } := by
  cases hw : s.wfail <;> cases ok <;> simp [afterMove, moveResult, hw, raise_eq, finish_eq]

/-- The transport's answer to the write of a frame, whether the write succeeded, and the bytes it left on the line
(20_memory.md R59): any answer but one that never comes. -/
inductive Sends (f : List Byte) : TxAnswer → Bool → List Byte → Prop
  | accepted : Sends f .accepted true f
  | failed (k : Nat) : Sends f (.failed k) false (f.take k)

/-- The state once FRAME was written with the outcome `ok`, leaving `bs` on the line and the answers `rest` to come. -/
def State.sent (s : State) (ok : Bool) (bs : List Byte) (rest : List TxAnswer) : State :=
  { s with txIn := rest, line := s.line ++ bs, trace := s.trace ++ [.tx s.frame ok] }

theorem txWrite_sent {s : State} {a : TxAnswer} {rest : List TxAnswer} {ok : Bool} {bs : List Byte}
    (hq : s.txIn = a :: rest) (ha : Sends s.frame a ok bs) (resume : Bool → State → State) :
    txWrite s resume = resume ok (s.sent ok bs rest) := by
  cases ha with
  | accepted => exact txWrite_accepted hq resume
  | failed k => exact txWrite_failed hq resume

/-! ## The validation of MOVE_SERVO (43_session_ops.md R161 step 1) -/

theorem moveLegal_of_bounds {c : Config} {id angle speed : Byte} (hid : id.toNat ≤ c.servoIdMax.toNat)
    (hangle : angle.toNat ≤ c.angleMax.toNat) (hmin : c.speedMin.toNat ≤ speed.toNat)
    (hmax : speed.toNat ≤ c.speedMax.toNat) : MoveLegal c id angle speed := by
  simp only [MoveLegal, moveChecks, firstBad_cons, firstBad_nil, idOut_eq_false.mpr hid,
    angleOut_eq_false.mpr hangle, speedOut_eq_false.mpr ⟨hmin, hmax⟩, Bool.false_eq_true, if_false]

theorem execMoveServo_start_legal {id angle speed : Byte} {s : State} (hs : s.stepAt = .start)
    (hl : MoveLegal s.cfg id angle speed) : exec (.moveServo id angle speed) s = .next (readySpeed id speed s) := by
  have hnone : firstBad (moveChecks s.cfg id angle speed) = none := hl
  rw [execMoveServo_start id angle speed hs, validated, hnone]

/-! ## A run, line by line -/

/-- The frame `f` is in FRAME, and the line `p` that writes it is next. -/
def State.ready (s : State) (f : List Byte) (p : SeqStep) : State := (s.setFrame f).setStep p

section
variable {cfg : Config} {i : Instr} {s : State}

theorem Underway.ready (h : Underway cfg i s) (f : List Byte) (p : SeqStep) : Underway cfg i (s.ready f p) :=
  ⟨h.cfg_eq, h.wf, h.noReset, h.busy, h.request⟩

theorem Underway.setWfail (h : Underway cfg i s) (b : Bool) : Underway cfg i (s.setWfail b) :=
  ⟨h.cfg_eq, h.wf, h.noReset, h.busy, h.request⟩

theorem Underway.sent (h : Underway cfg i s) (ok : Bool) (bs : List Byte) (rest : List TxAnswer) :
    Underway cfg i (s.sent ok bs rest) :=
  ⟨h.cfg_eq, h.wf, h.noReset, h.busy, h.request⟩

/-- Past the first line a step runs the request, also by way of a frame's row. -/
theorem Underway.step_atLine (h : Underway cfg i s) (hl : AtLine s i) : step s = exec i s := by
  obtain ⟨rfl, hwf, hr, hb, hd⟩ := h
  rw [step_low hwf (by simp only [State.rstNow, hr]), tick_nil hr, stepPhase_busy hb, stepBusy_atLine hb hd hl]

/-- At a line that writes, one step takes a run past the write and the lines that follow it. -/
theorem Underway.runSteps_write {a : TxAnswer} {rest : List TxAnswer} {ok : Bool} {bs : List Byte}
    {resume : Bool → State → State} (h : Underway cfg i s) (hl : AtLine s i)
    (hw : exec i s = .next (txWrite s resume)) (hq : s.txIn = a :: rest) (ha : Sends s.frame a ok bs) (k : Nat) :
    runSteps (k + 1) s = runSteps k (resume ok (s.sent ok bs rest)) := by
  rw [runSteps_succ ((h.step_atLine hl).trans hw), txWrite_sent hq ha]

theorem Accepted.runSteps_start {t : State} (h : Accepted s i) (he : exec i s = .next t) (k : Nat) :
    runSteps (k + 1) s = runSteps k t :=
  runSteps_succ ((h.underway.step_start h.first).trans he)

end

/-! ## The whole PROBE -/

/-- Two steps take an accepted PROBE past its write. -/
theorem Accepted.runSteps_query {s : State} {a : TxAnswer} {rest : List TxAnswer} {ok : Bool} {bs : List Byte}
    (h : Accepted s .probe) (hq : s.txIn = a :: rest) (ha : Sends s.cfg.statusQuery a ok bs) (k : Nat) :
    runSteps (k + 2) s = runSteps k (afterQuery ok ((s.ready s.cfg.statusQuery .writeQuery).sent ok bs rest)) := by
  rw [h.runSteps_start (execProbe_start h.first)]
  exact (h.underway.ready s.cfg.statusQuery .writeQuery).runSteps_write (.inl ⟨rfl, rfl⟩) (execProbe_writeQuery rfl)
    hq ha k

/-- StatusQuery is sent, and POLLS and LOG are cleared for the matcher. -/
def State.probing (s : State) (rest : List TxAnswer) : State :=
  (((s.ready s.cfg.statusQuery .writeQuery).sent true s.cfg.statusQuery rest).setPolls 0).setLog []

theorem Accepted.underway_probing {s : State} (h : Accepted s .probe) (rest : List TxAnswer) :
    Underway s.cfg .probe (s.probing rest) :=
  ((h.underway.ready _ _).sent true _ rest).cleared

/-- Two steps take an accepted PROBE whose write succeeds into the matcher's loop. -/
theorem Accepted.runSteps_probing {s : State} {rest : List TxAnswer} (h : Accepted s .probe)
    (hq : s.txIn = .accepted :: rest) (k : Nat) :
    runSteps (k + 2) s = runSteps k (matchLoop s.cfg.probePolls probeReturn (s.probing rest)) :=
  h.runSteps_query hq .accepted k

/-- What a PROBE returns once the chunks `cs` were read (43_session_ops.md R160). -/
theorem probeReturn_polled_res (o : MatchOutcome) (s : State) (txRest : List TxAnswer) (es : List Event)
    (cs : List Chunk) (rest : List RxAnswer) (p : SeqStep) :
    (probeReturn o ((s.probing txRest).polled es cs rest p)).res =
      Result.ofProbe o (chunkBytes cs) (BitVec.ofNat 8 cs.length) := by
  simp [probeReturn, finish_eq, State.polled, State.probing]

/-- A PROBE that a chunk ends: its trace and its result. -/
theorem probe_run_end {s : State} {txRest : List TxAnswer} {answers rest : List RxAnswer} {pre : List Chunk}
    {c : Chunk} {o : MatchOutcome} (h : Accepted s .probe) (htx : s.txIn = .accepted :: txRest)
    (hq : s.rxIn = answers ++ rest) (hg : ∀ c ∈ pre, goesOn s.cfg c) (he : EndsRun s.cfg c o)
    (hn : pre.length < s.cfg.probePolls.toNat)
    (hc : answers.map (chunkOf s.cfg.chunkMax) = (pre ++ [c]).map some) :
    ∃ t, runSteps (2 * pre.length + 3) s = .next t ∧ t.phase = .done ∧
      t.trace = s.trace ++ [.tx s.cfg.statusQuery true] ++ pollEvents s.cfg.probeIntervalMs pre ++ [.rx c] ∧
      t.res = Result.ofProbe o (chunkBytes pre ++ chunkBytes [c]) (BitVec.ofNat 8 (pre.length + 1)) ∧
      t.rxIn = rest ∧ t.txIn = txRest := by
  have hpolls : (s.probing txRest).polls.toNat + pre.length < s.cfg.probePolls.toNat := by
    simpa [State.probing] using hn
  have hrun := (h.underway_probing txRest).rounds_end (probe_runsMatcher s.cfg) hpolls hq hc hg he
  refine ⟨_, (h.runSteps_probing htx _).trans hrun, rfl, (List.append_assoc ..).symm, ?_, rfl, rfl⟩
  rw [probeReturn_polled_res, chunkBytes_append, List.length_append, List.length_singleton]

/-- A PROBE whose budget is spent: its trace and its result. -/
theorem probe_run_spend {s : State} {txRest : List TxAnswer} {answers rest : List RxAnswer} {pre : List Chunk}
    (h : Accepted s .probe) (htx : s.txIn = .accepted :: txRest) (hq : s.rxIn = answers ++ rest)
    (hg : ∀ c ∈ pre, goesOn s.cfg c) (hn : pre.length = s.cfg.probePolls.toNat)
    (hc : answers.map (chunkOf s.cfg.chunkMax) = pre.map some) :
    ∃ t, runSteps (2 * pre.length + 2) s = .next t ∧ t.phase = .done ∧
      t.trace = s.trace ++ [.tx s.cfg.statusQuery true] ++ pollEvents s.cfg.probeIntervalMs pre ∧
      t.res = Result.ofProbe .unmatched (chunkBytes pre) s.cfg.probePolls ∧ t.rxIn = rest ∧ t.txIn = txRest := by
  have hpolls : (s.probing txRest).polls.toNat + pre.length = s.cfg.probePolls.toNat := by
    simpa [State.probing] using hn
  obtain ⟨p, hrun⟩ := (h.underway_probing txRest).rounds_spend (probe_runsMatcher s.cfg) hpolls hq hc hg
  refine ⟨_, (h.runSteps_probing htx _).trans hrun, rfl, rfl, ?_, rfl, rfl⟩
  rw [probeReturn_polled_res, hn, BitVec.ofNat_toNat, BitVec.setWidth_eq]

/-! ## The whole MOVE_SERVO -/

/-- SetSpeed was written with the outcome `ok`, WFAIL says whether that failed, and MoveTo's write is next. -/
def State.speedSent (s : State) (id angle speed : Byte) (ok : Bool) (bs : List Byte) (rest : List TxAnswer) : State :=
  readyMove id angle (((readySpeed id speed s).sent ok bs rest).setWfail (!ok))

section
variable {id angle speed : Byte} {s : State} {ss mt : List Byte} {a b : TxAnswer} {rest : List TxAnswer} {ok ok' : Bool}
  {bs bs' : List Byte} (h : Accepted s (.moveServo id angle speed)) (hl : MoveLegal s.cfg id angle speed)
  (hss : ss = setspeedBytes s.cfg id (unitsOf s.cfg speed.toNat))
include h

theorem Accepted.underway_speedSent (ok : Bool) (bs : List Byte) (rest : List TxAnswer) :
    Underway s.cfg (.moveServo id angle speed) (s.speedSent id angle speed ok bs rest) :=
  ((((h.underway.setWfail false).ready _ _).sent ok bs rest).setWfail _).ready _ _

include hl hss

/-- Two steps take an accepted MOVE_SERVO with legal operands past its first write. -/
theorem Accepted.runSteps_speed (hq : s.txIn = a :: rest) (ha : Sends ss a ok bs) (k : Nat) :
    runSteps (k + 2) s = runSteps k (afterSpeed id angle ok ((readySpeed id speed s).sent ok bs rest)) := by
  subst hss
  have hu : Underway s.cfg (.moveServo id angle speed) (readySpeed id speed s) :=
    (h.underway.setWfail false).ready _ _
  rw [h.runSteps_start (execMoveServo_start_legal h.first hl)]
  exact hu.runSteps_write ⟨hl, .inl ⟨rfl, rfl, rfl⟩⟩ (execMoveServo_writeSpeed id angle speed rfl) hq ha k

/-- A MOVE_SERVO that makes both writes: its trace, what they leave on the line, and its result. -/
theorem moveServo_run_both (hmt : mt = movetoBytes s.cfg id (pulseOf s.cfg angle.toNat))
    (hq : s.txIn = a :: b :: rest) (ha : Sends ss a ok bs) (hb : Sends mt b ok' bs')
    (hgo : ok = false → s.cfg.moveOnSpeedFail = true) :
    ∃ t, runSteps 3 s = .next t ∧ t.phase = .done ∧ t.trace = s.trace ++ [.tx ss ok, .tx mt ok'] ∧
      t.line = s.line ++ bs ++ bs' ∧ t.res = moveResult (pulseOf s.cfg angle.toNat) (!ok) ok' ∧
      t.txIn = rest ∧ t.rxIn = s.rxIn := by
  have hspeed : runSteps 3 s = runSteps 1 (s.speedSent id angle speed ok bs (b :: rest)) :=
    (h.runSteps_speed hl hss hq ha 1).trans (congrArg (runSteps 1) (afterSpeed_goesOn hgo))
  have hline : AtLine (s.speedSent id angle speed ok bs (b :: rest)) (.moveServo id angle speed) :=
    ⟨hl, .inr ⟨rfl, rfl, fun hw => hgo ((Bool.not_eq_true' ok).mp hw)⟩⟩
  subst hss hmt
  have hmove := (h.underway_speedSent ok bs (b :: rest)).runSteps_write hline
    (execMoveServo_writeMove id angle speed rfl) rfl hb 0
  rw [afterMove_eq] at hmove
  exact ⟨_, hspeed.trans hmove, rfl, List.append_assoc .., rfl, rfl, rfl, rfl⟩

/-- A MOVE_SERVO that its first write ends. -/
theorem moveServo_run_first {k : Nat} (hq : s.txIn = .failed k :: rest) (hstop : s.cfg.moveOnSpeedFail = false) :
    ∃ t, runSteps 2 s = .next t ∧ t.phase = .done ∧ t.trace = s.trace ++ [.tx ss false] ∧
      t.line = s.line ++ ss.take k ∧ t.res = Result.error .transportWriteFailure infoFirstWrite ∧ t.txIn = rest ∧
      t.rxIn = s.rxIn := by
  have hrun := (h.runSteps_speed hl hss hq (.failed k) 0).trans (congrArg Host.Outcome.next (afterSpeed_raises hstop))
  subst hss
  exact ⟨_, hrun, rfl, rfl, rfl, rfl, rfl, rfl⟩

end

/-! ## The whole of a fire-and-forget operation -/

/-- An operation of one write: its trace, what the write leaves on the line, and its result. -/
theorem fireAndForget_run {i : Instr} {f : List Byte} {s : State} {a : TxAnswer} {rest : List TxAnswer} {ok : Bool}
    {bs : List Byte} (hi : FiresFrame s.cfg i f) (h : Accepted s i) (hq : s.txIn = a :: rest) (ha : Sends f a ok bs) :
    ∃ t, runSteps 2 s = .next t ∧ t.phase = .done ∧ t.trace = s.trace ++ [.tx f ok] ∧ t.line = s.line ++ bs ∧
      t.res = (if ok then Result.ok else Result.error .transportWriteFailure infoFirstWrite) ∧ t.txIn = rest ∧
      t.rxIn = s.rxIn := by
  have hi' : FiresFrame (s.ready f .writeOnly).cfg i f := hi
  have hwrote : runSteps 2 s = .next (afterOnly ok ((s.ready f .writeOnly).sent ok bs rest)) := by
    rw [h.runSteps_start (hi.exec_eq.trans (fireAndForget_start h.first f))]
    exact (h.underway.ready f .writeOnly).runSteps_write (hi'.atLine rfl)
      (hi'.exec_eq.trans (fireAndForget_writeOnly rfl f)) hq ha 0
  refine ⟨_, hwrote, ?_⟩
  cases ok <;> exact ⟨rfl, rfl, rfl, rfl, rfl, rfl⟩

/-! ## The frames' rows -/

/-- Where a frame is due, its row is the write of the operation in REQ. -/
theorem exec_frame_running {s t : State} {i f : Instr} {p : SeqStep} (hb : s.phase = .busy) (hs : s.stepAt = p)
    (hw : p.writes = true) (hd : decodeRequest s.req = .ok i) (hf : encodeFrame s.cfg f = some s.frame)
    (ht : sessionWrite i s = .next t) : exec f s = .next t := by
  rw [exec_frame hf, writeDue, if_pos ⟨hb, hs ▸ hw, rfl⟩, runningWrite, hd]
  exact ht

/-! ## The obligations -/

/-- Settles O29: both put the same frame in FRAME and make the same write. -/
theorem stopAndRecoverAreTheSame : Obligations.StopAndRecoverAreTheSame := fun _ => rfl

/-- Settles O22: the write's answer decides between the matcher's start and OFFLINE. -/
theorem probeSendsTheQuery : Obligations.ProbeSendsTheQuery := by
  refine fun s => ⟨fun hs => execProbe_start hs, fun rest hs hq hn => ?_, fun sent rest hs hq => ?_⟩
  · rw [execProbe_writeQuery hs, txWrite_accepted hq]
    exact congrArg Host.Outcome.next (matchStart_some _ _ _ hn)
  · rw [execProbe_writeQuery hs, txWrite_failed hq]
    rfl

/-- Settles O24, by the first check that fails. -/
theorem moveServoValidatesInOrder : Obligations.MoveServoValidatesInOrder := by
  intro id angle speed s hs
  rw [execMoveServo_start id angle speed hs, moveChecks]
  refine ⟨fun hid => ?_, fun hid hangle => ?_, fun hid hangle hspeed => ?_⟩
  · rw [validated_out (idOut_eq_true.mpr hid)]
    rfl
  · rw [validated_in (idOut_eq_false.mpr hid), validated_out (angleOut_eq_true.mpr hangle)]
    rfl
  · rw [validated_in (idOut_eq_false.mpr hid), validated_in (angleOut_eq_false.mpr hangle),
      validated_out (speedOut_eq_true.mpr hspeed)]
    rfl

/-- Settles O25, by the line and the answer to its write. -/
theorem moveServoRunsLineByLine : Obligations.MoveServoRunsLineByLine := by
  intro id angle speed s
  refine ⟨fun hs hid hangle hmin hmax => ?_, fun rest hs hq => ?_, fun sent rest hs hq hstop => ?_,
    fun sent rest hs hq hgo => ?_, fun rest hs hq => ?_, fun sent rest hs hq => ?_⟩
  · exact execMoveServo_start_legal hs (moveLegal_of_bounds hid hangle hmin hmax)
  · rw [execMoveServo_writeSpeed id angle speed hs, txWrite_accepted hq]
    rfl
  · rw [execMoveServo_writeSpeed id angle speed hs, txWrite_failed hq]
    exact congrArg Host.Outcome.next (afterSpeed_raises hstop)
  · have hgo' : (s.sent false (s.frame.take sent) rest).cfg.moveOnSpeedFail = true := hgo
    rw [execMoveServo_writeSpeed id angle speed hs, txWrite_sent hq (.failed sent), afterSpeed_goesOn fun _ => hgo',
      Bool.not_false, Bool.or_true]
    rfl
  · rw [execMoveServo_writeMove id angle speed hs, txWrite_accepted hq, afterMove_eq]
    rfl
  · rw [execMoveServo_writeMove id angle speed hs, txWrite_failed hq, afterMove_eq]
    rfl

/-- Settles O27: the three operations share their lines and differ in the frame. -/
theorem fireAndForgetRunsLineByLine : Obligations.FireAndForgetRunsLineByLine := by
  intro i f s hif
  rw [(firesFrame_of_bytes hif).exec_eq]
  refine ⟨fun hs => fireAndForget_start hs f, fun rest hs hq => ?_, fun sent rest hs hq => ?_⟩
  · rw [fireAndForget_writeOnly hs, txWrite_accepted hq]
    rfl
  · rw [fireAndForget_writeOnly hs, txWrite_failed hq]
    rfl

/-- Settles O23: a failed write ends it; else the matcher's rounds follow, and a chunk or the budget ends them. -/
theorem probeRunHasItsTrace : Obligations.ProbeRunHasItsTrace := by
  refine ⟨decodeRequest_eq_ok_iff_eq rfl, fun s h => ⟨fun sent txRest htx => ?_,
    fun txRest answers rest pre htx hq hg => ⟨fun xs hn hm hc => ?_, fun hn hc => ?_, fun hn hc => ?_⟩⟩⟩
  · exact ⟨_, h.runSteps_query htx (.failed sent) 0, rfl, rfl, rfl, rfl, rfl⟩
  · simpa [chunkBytes, Result.ofProbe, liveOf] using probe_run_end h htx hq hg (.hit hm) hn hc
  · simpa [chunkBytes, Result.ofProbe, liveOf] using probe_run_end h htx hq hg .readError hn hc
  · exact probe_run_spend h htx hq hg hn hc

/-- Settles O26: an illegal operand ends it at its first line, a failed first write at the second unless CFG goes on,
and else it makes both writes. -/
theorem moveServoRunHasItsTrace : Obligations.MoveServoRunHasItsTrace := by
  refine ⟨fun id angle speed => decodeRequest_eq_ok_iff_eq rfl, fun id angle speed info s h hbad => ?_, ?_⟩
  · obtain ⟨hid, hangle, hspeed⟩ := moveServoValidatesInOrder id angle speed s h.first
    have hraise : exec (.moveServo id angle speed) s =
        .next { s with phase := .done, res := Result.error .validationError info } := by
      rcases hbad with ⟨h₁, rfl⟩ | ⟨h₁, h₂, rfl⟩ | ⟨h₁, h₂, h₃, rfl⟩
      · exact hid h₁
      · exact hangle h₁ h₂
      · exact hspeed h₁ h₂ h₃
    exact ⟨_, h.runSteps_start hraise 0, rfl, rfl, rfl, rfl, rfl, rfl⟩
  · intro id angle speed s ss mt rest h hid hangle hmin hmax hss hmt
    have hl := moveLegal_of_bounds hid hangle hmin hmax
    exact ⟨fun hq => moveServo_run_both h hl hss hmt hq .accepted .accepted nofun,
      fun k hq => moveServo_run_both h hl hss hmt hq .accepted (.failed k) nofun,
      fun k hstop hq => moveServo_run_first h hl hss hq hstop,
      fun k hgo hq => moveServo_run_both h hl hss hmt hq (.failed k) .accepted fun _ => hgo,
      fun k j hgo hq => moveServo_run_both h hl hss hmt hq (.failed k) (.failed j) fun _ => hgo⟩

/-- Settles O28: each request has its one word, and each run is one write of its frame. -/
theorem fireAndForgetRunHasItsTrace : Obligations.FireAndForgetRunHasItsTrace :=
  ⟨fun w => ⟨decodeRequest_eq_ok_iff_eq rfl w, decodeRequest_eq_ok_iff_eq rfl w, decodeRequest_eq_ok_iff_eq rfl w⟩,
    fun _ _ _ _ hif h => ⟨fun hq => fireAndForget_run (firesFrame_of_bytes hif) h hq .accepted,
      fun k hq => fireAndForget_run (firesFrame_of_bytes hif) h hq (.failed k)⟩⟩

/-- Settles O31: the frame in FRAME is that of the row, so the row is the write of the operation in REQ, whose effect
its own line gives. -/
theorem frameRowsComplete : Obligations.FrameRowsComplete := by
  intro s rest hb hq
  refine ⟨fun id units angle speed hs hd hf => ?_, fun id pw angle speed hs hd hw hpw hf => ?_, fun hs hd hf => ?_,
    fun hs hd hn hf => ?_, fun payload hs hd hf => ?_⟩
  · obtain ⟨-, haccepted, -⟩ := moveServoRunsLineByLine id angle speed s
    exact exec_frame_running hb hs rfl hd (congrArg some hf.symm) (haccepted rest hs hq)
  · obtain ⟨-, -, -, -, haccepted, -⟩ := moveServoRunsLineByLine id angle speed s
    have hmove := haccepted rest hs hq
    rw [if_neg (Bool.eq_false_iff.mp hw), ← hpw] at hmove
    exact exec_frame_running hb hs rfl hd (congrArg some hf.symm) hmove
  · rcases hd with hd | hd
    · obtain ⟨-, haccepted, -⟩ := fireAndForgetRunsLineByLine .emergencyStop _ s (.inl ⟨rfl, rfl⟩)
      exact exec_frame_running hb hs rfl hd (congrArg some hf.symm) (haccepted rest hs hq)
    · obtain ⟨-, haccepted, -⟩ := fireAndForgetRunsLineByLine .recover _ s (.inr (.inl ⟨rfl, rfl⟩))
      exact exec_frame_running hb hs rfl hd (congrArg some hf.symm) (haccepted rest hs hq)
  · obtain ⟨-, haccepted, -⟩ := probeSendsTheQuery s
    exact exec_frame_running hb hs rfl hd (congrArg some hf.symm) (haccepted rest hs hq hn)
  · obtain ⟨-, haccepted, -⟩ := fireAndForgetRunsLineByLine .startActionGroup _ s (.inr (.inr ⟨rfl, rfl⟩))
    exact exec_frame_running hb hs rfl hd (congrArg some hf.symm) (haccepted rest hs hq)

end Sys2Proof.Machine

/-! A block that waits for ever (60_exceptions.md R207): the port event at each line that has one, a transaction whose
answer never comes, and a result that the caller never takes. -/

namespace Sys2Proof.Machine

/-! ## The port event of a line -/

theorem MatcherAt.not_writes {n : Byte} {s : State} (h : MatcherAt n s) : s.stepAt.writes = false := by
  rcases h.step with hs | hs <;> rw [hs] <;> rfl

/-- At a line that writes, an operation is one `TxWrite` and what follows it. -/
theorem AtLine.exec_txWrite {s : State} {i : Instr} (h : AtLine s i) (hw : s.stepAt.writes = true) :
    ∃ resume, exec i s = .next (txWrite s resume) := by
  cases i
  case moveServo id angle speed =>
    obtain ⟨-, ⟨hs, -⟩ | ⟨hs, -⟩⟩ := h
    · exact ⟨_, execMoveServo_writeSpeed id angle speed hs⟩
    · exact ⟨_, execMoveServo_writeMove id angle speed hs⟩
  case probe =>
    rcases h with ⟨hs, -⟩ | hm
    · exact ⟨_, execProbe_writeQuery hs⟩
    · exact absurd hw (Bool.eq_false_iff.mp hm.not_writes)
  case matchResponse => exact absurd hw (Bool.eq_false_iff.mp (MatcherAt.not_writes h))
  case emergencyStop | recover | startActionGroup => exact ⟨_, fireAndForget_writeOnly h.1 _⟩
  all_goals exact h.elim

/-- At a poll, an operation is one `RxRead` and what follows it. -/
theorem AtLine.exec_rxRead {s : State} {i : Instr} (h : AtLine s i) (hp : s.stepAt = .poll) :
    ∃ resume, exec i s = .next (rxRead s resume) := by
  cases i
  case probe => exact ⟨_, (probe_runsMatcher s.cfg).poll s hp⟩
  case matchResponse n d => exact ⟨_, (matchResponse_runsMatcher s.cfg n d).poll s hp⟩
  case moveServo => obtain ⟨-, ⟨hs, -⟩ | ⟨hs, -⟩⟩ := h <;> exact nomatch hp.symm.trans hs
  case emergencyStop | recover | startActionGroup => exact nomatch hp.symm.trans h.1
  all_goals exact h.elim

/-! ## A transaction that never completes -/

theorem txWrite_never {s : State} (h : s.nextTx = .never) (resume : Bool → State → State) : txWrite s resume = s := by
  simp only [txWrite, h]

theorem rxRead_never {s : State} (h : s.nextRx = .never) (resume : Chunk → State → State) : rxRead s resume = s := by
  simp only [rxRead, h, chunkOf]

/-- An operation whose transaction never completes stays at its line. -/
theorem AtLine.exec_stuck {s : State} {i : Instr} (h : AtLine s i)
    (hn : (s.stepAt.writes = true ∧ s.nextTx = .never) ∨ (s.stepAt = .poll ∧ s.nextRx = .never)) :
    exec i s = .next s := by
  rcases hn with ⟨hw, hn⟩ | ⟨hp, hn⟩
  · obtain ⟨resume, he⟩ := h.exec_txWrite hw
    rw [he, txWrite_never hn]
  · obtain ⟨resume, he⟩ := h.exec_rxRead hp
    rw [he, rxRead_never hn]

/-! ## A run that stays where it is -/

theorem runSteps_fixed {s : State} (h : step s = .next s) (k : Nat) : runSteps k s = .next s := by
  induction k with
  | zero => rfl
  | succ k ih => rw [runSteps_succ h, ih]

/-! ## The obligations -/

/-- Settles O51: the invariant puts STEP at a line of the operation in REQ, whose one transaction leaves the state as it
is, so the step does, and with it every run. -/
theorem stuckTransactionStaysBusy : Obligations.StuckTransactionStaysBusy := by
  intro s i k hi hr hb hd hn
  have hne : s.stepAt ≠ .start := by
    intro hs
    simp [hs, SeqStep.writes] at hn
  have hl := hi.atLine hb hd hne
  have hu : Underway s.cfg i s := ⟨rfl, hi.config, hr, hb, hd⟩
  exact runSteps_fixed ((hu.step_atLine hl).trans (hl.exec_stuck hn)) k

/-- Settles O57: the step on a result that the caller never takes leaves the state as it is, and with it every run. -/
theorem untakenResultStaysDone : Obligations.UntakenResultStaysDone :=
  fun _ k hc hr hp hn => runSteps_fixed (step_untaken hc hr hp hn) k

end Sys2Proof.Machine

/-! Reset and hazards (70_reset_and_hazards.md): what an asserted reset makes of the registers and of the two streams
(R230, R231), and a block that nothing asks (R233). -/

namespace Sys2Proof.Machine

/-! ## Reset and the two streams -/

theorem step_reset {s : State} {sent : Nat} {taken : Bool} {rest : List RstSample} (hc : configWf s.cfg = true)
    (h : s.rstIn = .high sent taken :: rest) : step s = .next (resetBlock s.tick sent taken) :=
  step_high hc (by simp only [State.rstNow, h])

/-- Reset inside a `TxWrite`. -/
theorem resetSent_write {s : State} (hb : s.phase = .busy) (hw : s.stepAt.writes = true) (sent : Nat) :
    resetSent s sent = s.frame.take sent := if_pos ⟨hb, hw⟩

/-- Reset elsewhere than inside a `TxWrite`. -/
theorem resetSent_elsewhere {s : State} (h : s.phase = .busy → s.stepAt.writes = false) (sent : Nat) :
    resetSent s sent = [] := if_neg fun ⟨hb, hw⟩ => Bool.false_ne_true ((h hb).symm.trans hw)

/-- Reset inside an `RxRead`. -/
theorem resetLost_read {s : State} {a : RxAnswer} {answers : List RxAnswer} (hb : s.phase = .busy)
    (hp : s.stepAt = .poll) (hq : s.rxIn = a :: answers) (taken : Bool) :
    resetLost s taken = if taken then answers else a :: answers := by
  simp only [resetLost, hb, hp, hq, true_and, List.tail_cons]

/-- Reset elsewhere than inside an `RxRead`. -/
theorem resetLost_elsewhere {s : State} (h : s.phase = .busy → s.stepAt ≠ .poll) (taken : Bool) :
    resetLost s taken = s.rxIn := if_neg fun ⟨hb, hp, _⟩ => h hb hp

/-- What an asserted reset leaves of the two streams, from what it makes of each. -/
theorem step_reset_streams {s : State} {sent : Nat} {taken : Bool} {rest : List RstSample} {bs : List Byte}
    {answers : List RxAnswer} (hc : configWf s.cfg = true) (h : s.rstIn = .high sent taken :: rest)
    (hs : resetSent s.tick sent = bs) (hl : resetLost s.tick taken = answers) :
    ∃ t, step s = .next t ∧ t.phase = .idle ∧ t.line = s.line ++ bs ∧ t.rxIn = answers ∧ t.trace = s.trace :=
  ⟨_, step_reset hc h, rfl, congrArg (s.line ++ ·) hs, hl, rfl⟩

/-! ## A block that nothing asks -/

theorem step_unasked {s : State} (hc : configWf s.cfg = true) (hr : s.rstIn = []) (hp : s.phase = .idle)
    (hq : s.reqIn = []) : step s = .next s := by
  rw [step_low hc (by simp only [State.rstNow, hr]), tick_nil hr, stepPhase_idle hp, accept_nil hq]

/-! ## The obligations -/

/-- Settles O49: the bytes that an interrupted write had sent are the first of FRAME, as many as the sample says; an
interrupted read may have taken the next answer; and a step is inside one of them at most. -/
theorem resetInsideATransaction : Obligations.ResetInsideATransaction := by
  intro s taken rest hc
  refine ⟨fun bs hb hw hpre hrst => ?inWrite, fun sent a answers hb hp hq hrst => ?inRead,
    fun sent hb hrst => ?outside⟩
  case inWrite =>
    have hnp : s.stepAt ≠ .poll := fun hp => by rw [hp] at hw; cases hw
    have hsent : resetSent s.tick bs.length = bs :=
      (resetSent_write (s := s.tick) hb hw _).trans (List.prefix_iff_eq_take.mp hpre).symm
    exact step_reset_streams hc hrst hsent (resetLost_elsewhere (fun _ => hnp) taken)
  case inRead =>
    have hnw : s.stepAt.writes = false := by rw [hp]; rfl
    simpa using step_reset_streams hc hrst (resetSent_elsewhere (fun _ => hnw) sent)
      (resetLost_read (s := s.tick) hb hp hq taken)
  case outside =>
    simpa using step_reset_streams hc hrst (resetSent_elsewhere (fun h => absurd h hb) sent)
      (resetLost_elsewhere (fun h => absurd h hb) taken)

/-- Settles O50: a step with no request waiting leaves the state as it is, and with it every run. -/
theorem nothingIsSentUnasked : Obligations.NothingIsSentUnasked := by
  intro s t k hc hr hp hq ht
  rw [runSteps_fixed (step_unasked hc hr hp hq) k] at ht
  cases ht
  rfl

/-- Settles O48: the step is `resetBlock`, which names every register that it clears. -/
theorem resetClearsTheRegisters : Obligations.ResetClearsTheRegisters := by
  intro s sent taken rest hc hrst
  have hrest : s.rstIn.tail = rest := by rw [hrst, List.tail_cons]
  exact ⟨_, step_reset hc hrst, rfl, rfl, rfl, rfl, rfl, rfl, rfl, rfl, rfl, hrest, rfl, rfl⟩

end Sys2Proof.Machine
